-- ==== Sys2Proof/Word.lean ====
section
/-! DEFINITION. The byte, the one machine word of the 6440: window bytes, buffer bytes and flash bytes are all
eight bits wide (R93, R19, R198). -/

namespace Sys2Proof

/-- One byte of the window, of a slot buffer or of flash. -/
abbrev Byte := BitVec 8

end Sys2Proof
end

