-- ==== Sys2Proof/Syntax.lean ====
section
/-! DEFINITION. The commands of the 6440: one constructor of `Instr` per row of spec/opcode_table.json.
A row is a host access to the window, an event on a pin, a step of the request engine or of the reclaim engine, or an
event at a plane controller. The table gives its rows no operand fields; the operands here are what the rule of the row
names (a byte written, a plane) and, for events at the flash cells and the pins, what the cells and the pins were found
to hold, which nothing inside the part decides (R20, R207; log entry 2). -/

namespace Sys2Proof

/-- The two planes of the array (R19). -/
inductive PlaneId where
  /-- Plane 0, sectors 0 to 31. -/
  | p0
  /-- Plane 1, sectors 32 to 63. -/
  | p1
  deriving DecidableEq, Repr

/-- The parameter bytes of a slot, window offsets 0x10 to 0x19 (R93, R205). -/
inductive ParamByte where
  | rq | opt | keyL | keyH | cls | len | ver0 | ver1 | ver2 | ver3
  deriving DecidableEq, Repr

/-- The bytes that the window map marks read (R198). -/
inductive ReadOnlyByte where
  | id | state | reclaim | fault | blanks | slotst | res | rlen | rkeyL | rkeyH | rcls | rflg
  deriving DecidableEq, Repr

/-- What a cut-off leaves in one plane (R20): `granule` for a granule whose program is cut off, a mask whose set bits
are those that kept their previous value; `sector` for a sector whose erase is cut off, the bytes by offset that do not
read 0xFF. -/
structure Torn where
  granule : List Byte
  sector : List Host.Cell
  deriving DecidableEq, Repr

/-- The two edges of RESET# (R207). -/
inductive ResetEdge where
  /-- RESET# goes low, or power comes on. -/
  | asserted
  /-- RESET# is released: whether PFI# is low at that moment (R8, R190). -/
  | released (pfiLow : Bool)
  deriving DecidableEq, Repr

/-- The commands, in the table's order. -/
inductive Instr where
  /-- CHIP_RESET (R207): its beginning or its end. `torn0`, `torn1`: what the cut-off at its beginning leaves in each plane (R37). -/
  | chipReset (edge : ResetEdge) (torn0 torn1 : Torn)
  /-- POWER_FAIL_HALT (R190). `left0`, `left1`: what an erase abandoned in that plane leaves in its sector (R36, R20). -/
  | powerFailHalt (left0 left1 : List Host.Cell)
  /-- CLAIM (R97). -/
  | claim
  /-- SUBMIT (R98). -/
  | submit
  /-- DISCARD (R99). -/
  | discard
  /-- ABORT (R101, R102). -/
  | abort
  /-- RELEASE (R100). -/
  | release
  /-- ACTION_CODE (R103): a write to ACTION of a value that names no action; one that names an action acts as it does (R204, log entry 23). -/
  | actionCode (value : Byte)
  /-- WINDOW_RESET (R111): a write to CTL with bit 7 set; `low` is bits 0 to 6 of the byte. -/
  | windowReset (low : BitVec 7)
  /-- RECLAIM_MODE (R199): a write to CTL with bit 7 clear; `low` is bits 0 to 6 of the byte. -/
  | reclaimMode (low : BitVec 7)
  /-- IFLAG_WRITE (R109). -/
  | iflagWrite (value : Byte)
  /-- IMASK_WRITE (R110). -/
  | imaskWrite (value : Byte)
  /-- LOWMK_WRITE (R202). -/
  | lowmkWrite (value : Byte)
  /-- SUSLIM_WRITE (R33). -/
  | suslimWrite (value : Byte)
  /-- WEARSP_WRITE (R158). -/
  | wearspWrite (value : Byte)
  /-- SLOTSEL_WRITE (R95). -/
  | slotselWrite (value : Byte)
  /-- BDATA_READ (R106). -/
  | bdataRead
  /-- BDATA_WRITE (R106). -/
  | bdataWrite (value : Byte)
  /-- BPTR_WRITE (R106). -/
  | bptrWrite (value : Byte)
  /-- PARAM_WRITE (R96). -/
  | paramWrite (which : ParamByte) (value : Byte)
  /-- READ_ONLY_BYTE_WRITE (R198). -/
  | readOnlyByteWrite (which : ReadOnlyByte) (value : Byte)
  /-- READ (R116). -/
  | read
  /-- WRITE (R121). -/
  | write
  /-- DELETE (R131). -/
  | delete
  /-- FIND_NEXT (R133). -/
  | findNext
  /-- REPORT (R134). -/
  | report
  /-- RECLAIM (R136). -/
  | reclaim
  /-- CLASS_SET (R150). -/
  | classSet
  /-- CLASS_FREEZE (R151). -/
  | classFreeze
  /-- FORMAT (R139). -/
  | format
  /-- BAD_REQUEST (R15). -/
  | badRequest
  /-- READ_RUN_DONE (R23). `granules`: how many granules were read when a stop or a halt ended the run; more than the run has where the
  stop came after the last one. -/
  | readRunDone (plane : PlaneId) (granules : Nat)
  /-- GRANULE_PROGRAM_DONE (R24). `flaw`: `none` where every bit took as R20 says; `some x` where the cells read back
  as the previous content with only the bits of `x` kept (R25). -/
  | granuleProgramDone (plane : PlaneId) (flaw : Option (List Byte))
  /-- PROGRAM_TIMEOUT (R25). `kept`: the bits that kept their previous value (R20). -/
  | programTimeout (plane : PlaneId) (kept : List Byte)
  /-- ERASE_BLANK_CHECK (R27). `left`: the bytes, by offset, that the erase left at another value than 0xFF. -/
  | eraseBlankCheck (plane : PlaneId) (left : List Host.Cell)
  /-- ERASE_TIMEOUT (R28). `left`: what the erase stopped at 150 ms leaves in the sector (R20). -/
  | eraseTimeout (plane : PlaneId) (left : List Host.Cell)
  /-- SUSPEND_COMPLETE (R31). -/
  | suspendComplete (plane : PlaneId)
  /-- SELECT (R160). -/
  | select
  deriving DecidableEq, Repr

end Sys2Proof
end

