-- ==== Sys2Proof/Config.lean ====
section
/-! DEFINITION. The figures that the data sheet fixes for the part. The part leaves no figure to an implementation,
so this file holds no open constant: what flash cells hold after a cut-off program or erase (R20) is an operand of the
command that cuts them off, free in every statement (log entry 2). -/

namespace Sys2Proof.Config

/-- Bytes of one sector (section 2.1). -/
def sectorSize : Nat := 4096
/-- Granules of one sector (section 2.1). -/
def granulesPerSector : Nat := 512
/-- Bytes of one granule (R19). -/
def granuleSize : Nat := 8
/-- Offset of the record area in a sector (R39). -/
def recordArea : Nat := 64
/-- The value an erased byte reads as (section 2.1). -/
def erasedByte : Byte := 0xFF
/-- ERASE_LIMIT (R29). -/
def eraseLimit : Nat := 100000
/-- Capacity of the key index (R78). -/
def indexCapacity : Nat := 1024
/-- Longest payload (R2). -/
def maxLength : Nat := 240
/-- The value of the write sequence counter that has no version left to hand out (R5, R6). -/
def writeSeqExhausted : Nat := 4294967296
/-- The value of the sector sequence counter that has no number left to hand out (R74). -/
def sectorSeqExhausted : Nat := 4294967296
/-- The store generation at which FORMAT is refused (R13, R73). -/
def generationLimit : Nat := 65535
/-- Fewer usable sectors than this declare READ_ONLY (R71). -/
def usableThreshold : Nat := 6
/-- A saturating REPORT counter stops here (R38, R118). -/
def counterTop : Nat := 65535
/-- The window's ID byte (R198). -/
def idByte : Byte := 0x64
/-- Erases per unit of WEARSP (R158). -/
def wearUnit : Nat := 16

end Sys2Proof.Config
end

