-- ==== Sys2Proof/Machine/State.lean ====
section
/-! DEFINITION. The state of the 6440 as plain data, one structure per block of the block diagram (00_scope.md section 2),
the reasons a command can stop, and the state after chip reset. -/

namespace Sys2Proof.Machine

/-- A sector number, 0 to 63 (R19). -/
abbrev SectorNo := Fin 64
/-- A slot number, 0 to 3 (R93). -/
abbrev SlotNo := Fin 4

/-! ### Flash and the plane controllers (chapter 2) -/

/-- The three claimants of the array (section 2.2). -/
inductive Claimant where
  | request | reclaim | mount
  deriving DecidableEq, Repr

/-- The verify mode of a program run (R24). -/
inductive Verify where
  | exact | notErased
  deriving DecidableEq, Repr

/-- What a claim asks for (R21): a read run of `count` granules, a program run of the content given, or an erase. -/
inductive Work where
  | read (count : Nat)
  | program (data : List Byte) (mode : Verify)
  | erase
  deriving DecidableEq, Repr

/-- A claim on a plane controller (R21). `first` is the first granule of a run. -/
structure Claim where
  who : Claimant
  sector : SectorNo
  first : Nat
  work : Work
  deriving DecidableEq, Repr

/-- A run in service (R22). `done` counts the granules programmed and verified; `stop` is set when the claimant has asked
the run to stop (R23, R26). -/
structure Run where
  claim : Claim
  done : Nat
  stop : Bool
  deriving DecidableEq, Repr

/-- The erase condition of a plane, where it is not none (R22). -/
inductive EraseCond where
  | running | suspending | suspended
  deriving DecidableEq, Repr

/-- The erase of a plane (R22): the sector, the claimant, the condition, the suspend count and the latched limit. -/
structure EraseOp where
  who : Claimant
  sector : SectorNo
  cond : EraseCond
  count : Nat
  limit : Nat
  deriving DecidableEq, Repr

/-- A plane controller (R22): the run in service, the erase, the waiting claim of each claimant that can wait, and
the halted condition of R36. -/
structure Plane where
  run : Option Run
  erase : Option EraseOp
  waitReq : Option Claim
  waitRec : Option Claim
  halted : Bool
  deriving DecidableEq, Repr

/-- The overall condition of a plane controller (R22). -/
inductive PlaneState where
  | idle | reading | programming | erasing | suspending | suspended | suspendedReading | suspendedProgramming
  deriving DecidableEq, Repr

/-- The answer of a plane controller to a claim (R21). Data are the bytes read; the number is of granules. -/
inductive Answer where
  | bytes (data : List Byte)
  | done (n : Nat)
  | fault (n : Nat)
  | stopped (data : List Byte) (n : Nat)
  | erasing
  | halted (data : List Byte) (n : Nat)
  deriving DecidableEq, Repr

/-- The two counters that the plane controllers keep in common (R38). -/
structure FaultCounts where
  program : Nat
  erase : Nat
  deriving DecidableEq, Repr

/-! ### Space manager (chapter 4) -/

/-- The eight sector-table states (R58). -/
inductive SectorState where
  | blank | hostOpen | moveOpen | full | victim | erasing | erasePending | retired
  deriving DecidableEq, Repr

/-- A sector table entry (R56). -/
structure SectorEntry where
  state : SectorState
  eraseCount : Nat
  known : Bool
  seq : Option Nat
  append : Nat
  liveCount : Nat
  liveBytes : Nat
  staleBytes : Nat
  suspect : Bool
  deriving DecidableEq, Repr

/-- The space manager: the sector table (R56), the store generation (R73) and the sector sequence counter (R74). -/
structure Space where
  sectors : Vector SectorEntry 64
  gen : Nat
  seqCtr : Nat
  deriving DecidableEq, Repr

/-- A place of a record: sector and offset of its descriptor granule (R63). -/
structure Place where
  sector : SectorNo
  offset : Nat
  deriving DecidableEq, Repr

/-! ### Key index and class table (chapters 5 and 8) -/

/-- An index entry (R78). -/
structure Entry where
  key : Nat
  cls : Nat
  place : Place
  length : Nat
  version : Nat
  moving : Bool
  deriving DecidableEq, Repr

/-- The key index: its entries in key order (R78), the nine live record counts, classes 0 to 7 at 0 to 7 and class 15
at 8 (R79), the change hold (R84) and the waiter (R86). -/
structure KeyIndex where
  entries : List Entry
  counts : Vector Nat 9
  hold : Option Nat
  waiter : Option Nat
  deriving DecidableEq, Repr

/-- The policies of a class (R144). -/
inductive Policy where
  | rewritable | writeOnce | frozen
  deriving DecidableEq, Repr

/-- A class table entry (R143). -/
structure ClassEntry where
  policy : Policy
  quota : Nat
  present : Bool
  deriving DecidableEq, Repr

/-- The default class table entry (R143). -/
def ClassEntry.default : ClassEntry := { policy := .rewritable, quota := 0, present := false }

/-! ### Window unit (chapter 6) -/

/-- The slot states (R94). -/
inductive SlotState where
  | free | opened | queued | active | done
  deriving DecidableEq, Repr

/-- The result codes (section 1.7). -/
inductive ResultCode where
  | ok | aborted | notFound | versionMismatch | exists_ | keyInvalid | keyReserved | lengthInvalid | classInvalid
  | policyRefused | quotaExceeded | indexFull | storeFull | readOnly | notReady | corrupt | writeFault | powerFail
  | badRequest | ended | formatLimit
  deriving DecidableEq, Repr

/-- The result flags (section 1.7, R205). -/
structure ResultFlags where
  abortLate : Bool
  replaced : Bool
  retried : Bool
  waited : Bool
  noVictim : Bool
  oldKept : Bool
  deriving DecidableEq, Repr

/-- No result flag set. -/
def ResultFlags.none : ResultFlags :=
  { abortLate := false, replaced := false, retried := false, waited := false, noVictim := false, oldKept := false }

/-- The parameter bytes of a slot as the host wrote them (R93, R96, R205). -/
structure Params where
  rq : Byte
  opt : Byte
  keyL : Byte
  keyH : Byte
  cls : Byte
  len : Byte
  ver0 : Byte
  ver1 : Byte
  ver2 : Byte
  ver3 : Byte
  deriving DecidableEq, Repr

/-- Every parameter zero (R93, R97). -/
def Params.zero : Params :=
  { rq := 0, opt := 0, keyL := 0, keyH := 0, cls := 0, len := 0, ver0 := 0, ver1 := 0, ver2 := 0, ver3 := 0 }

/-- The result fields that an ending may name beside the code and the flags (R93, R105). -/
structure ResultFields where
  length : Nat
  key : Nat
  cls : Nat
  version : Nat
  deriving DecidableEq, Repr

/-- The zeros that CLAIM leaves in the result fields (R97). -/
def ResultFields.zero : ResultFields := { length := 0, key := 0, cls := 0, version := 0 }

/-- A request slot (R93). `hidden` is the hiding of R112. The queue position is the slot's place in `Window.queue`
(R104). -/
structure Slot where
  state : SlotState
  hidden : Bool
  params : Params
  code : ResultCode
  fields : ResultFields
  flags : ResultFlags
  buffer : List Host.Cell
  ptr : Byte
  deriving DecidableEq, Repr

/-- The fault codes (R108). -/
inductive WindowFault where
  | none | actionState | paramState | bufferState | selectRange | actionCode
  deriving DecidableEq, Repr

/-- The reclaim modes (R155, R199). -/
inductive ReclaimMode where
  | auto | onRequest
  deriving DecidableEq, Repr

/-- The window unit. `busOut` is the data byte that the last BDATA read drove on D0 to D7 (section 12.6). -/
structure Window where
  slots : Vector Slot 4
  sel : SlotNo
  queue : List SlotNo
  iflag : Byte
  imask : Byte
  fault : WindowFault
  lowmk : Nat
  suslim : Nat
  wearsp : Nat
  mode : ReclaimMode
  busOut : Byte
  deriving DecidableEq, Repr

/-! ### Request engine (chapters 1 and 7) -/

/-- The store states (R7). -/
inductive StoreState where
  | mounting | unformatted | ready | readOnly | formatting | halted
  deriving DecidableEq, Repr

/-- The request engine states (R16). -/
inductive EngineState where
  | idle | running | waitSpace | waitMove
  deriving DecidableEq, Repr

/-- Where the ACTIVE request stands. `taken`: in CHECK, at its taking or repeated after the clear-moving (R86). `lookup`: a READ about to
repeat LOOKUP (R119). `placeWait`: at PLACE behind the opening of a MOVE_OPEN sector (section 4.4). `opening`: at PLACE
with the open granule run of the sector named outstanding, carrying the sequence number taken (R60). `retireNew`: the retire
of R129. The `fmt` phases are FORMAT's ERASE for the sector named (R141). -/
inductive Phase where
  | taken
  | lookup
  | transfer
  | waitSpace
  | waitMove
  | placeWait
  | opening (sector : SectorNo) (seq : Nat)
  | descriptor
  | payload
  | commit
  | retireOld
  | retireNew
  | retire
  | cycle
  | stopReclaim
  | fmtReadMark (sector : SectorNo)
  | fmtMark (sector : SectorNo)
  | fmtErase (sector : SectorNo)
  | fmtHeader (sector : SectorNo)
  | fmtReadRetire (sector : SectorNo)
  | fmtRetire (sector : SectorNo)
  deriving DecidableEq, Repr

/-- What a WRITE, CLASS_SET or CLASS_FREEZE writes (R121, R138): the key, class, length and payload of its record, the place
it holds, the version it took, and the count of its placements that faulted (R127). -/
structure WriteJob where
  key : Nat
  cls : Nat
  length : Nat
  payload : List Byte
  place : Option Place
  version : Nat
  faults : Nat
  deriving DecidableEq, Repr

/-- No record to write. -/
def WriteJob.empty : WriteJob :=
  { key := 0, cls := 0, length := 0, payload := [], place := none, version := 0, faults := 0 }

/-- The ACTIVE request (R114). `params` is the copy read at taking, `admitted` the store state then (R15). `entry` is the
entry that a READ's lookup or a take-hold answered with. `aborting`: an abort is taken and the answer of the run in service
is awaited (R115). -/
structure Request where
  slot : SlotNo
  params : Params
  admitted : StoreState
  phase : Phase
  flags : ResultFlags
  aborting : Bool
  entry : Option Entry
  job : WriteJob
  deriving DecidableEq, Repr

/-- The request engine: the store state (R7), the write sequence counter (R5), the corrupt-read count (R118) and the ACTIVE
request. -/
structure Engine where
  store : StoreState
  writeSeq : Nat
  corruptReads : Nat
  req : Option Request
  deriving DecidableEq, Repr

/-! ### Reclaim engine (chapter 9) -/

/-- The reclaim phases (R154). -/
inductive ReclaimPhase where
  | idle | select | evacuate | erase | header
  deriving DecidableEq, Repr

/-- The cycle kinds (R154). -/
inductive CycleKind where
  | evacuation | pending
  deriving DecidableEq, Repr

/-- The stop request (R154). -/
inductive StopRequest where
  | none | format | readOnly
  deriving DecidableEq, Repr

/-- The ends of a cycle (R157). `abandoned` says whether the abandonment declared READ_ONLY. -/
inductive CycleEnd where
  | completed
  | faulted
  | abandoned (declared : Bool)
  | stopped
  | noVictim
  deriving DecidableEq, Repr

/-- What the reclaim engine is doing within its phase: which claim it has outstanding or what it waits for.
`readDesc`, `heldWait`: the walk (R162). `readRecord` to `retireCopy`: a relocation step (R163 to R166), where
`retireCopy true` follows a failed retire of the original and `retireCopy false` a relocate answered NOT_CURRENT.
`roomWait` waits behind the opening of a HOST_OPEN sector (section 4.4). `readMark` to `identity`: ERASE and HEADER (R169,
R170). `readRetire`, `retireSector`: the retire run of R70, with the end that the cycle comes to.
`stopRead`, `stopRecord`, `stopOpening`: the cycle has reached its stopping point and awaits the answer of a run in
service that it asked to stop (R171). -/
inductive ReclaimAct where
  | idle
  | select
  | readDesc
  | heldWait
  | readRecord
  | roomWait
  | opening (sector : SectorNo) (seq : Nat)
  | copyDescriptor
  | copyPayload
  | copyCommit
  | retireOriginal
  | retireCopy (faulted : Bool)
  | readMark
  | mark
  | erasing
  | identity
  | readRetire (outcome : CycleEnd)
  | retireSector (outcome : CycleEnd)
  | stopRead
  | stopRecord
  | stopOpening (sector : SectorNo) (seq : Nat)
  deriving DecidableEq, Repr

/-- The relocation step in hand (R154): the key, the original's place, the copy's place once obtained, the footprint, the
entry that MARKED named, and whether a copy of it has faulted, so that the step is in its retry (R165). -/
structure ReclaimStep where
  key : Nat
  original : Place
  copy : Option Place
  footprint : Nat
  entry : Entry
  retrying : Bool := false
  deriving DecidableEq, Repr

/-- An exclusion list item (R159). -/
structure Exclusion where
  sector : SectorNo
  key : Nat
  offset : Nat
  deriving DecidableEq, Repr

/-- The reclaim engine (R154). -/
structure Reclaim where
  phase : ReclaimPhase
  act : ReclaimAct
  cycle : Option (SectorNo × CycleKind)
  pos : Nat
  step : Option ReclaimStep
  buffer : List Byte
  stop : StopRequest
  noVictim : Bool
  excluded : List Exclusion
  deriving DecidableEq, Repr

/-! ### Mount logic (chapter 10) -/

/-- The mount phases (R174). -/
inductive MountPhase where
  | headers | records | classes | repair | none
  deriving DecidableEq, Repr

/-- A candidate sector with the generation and sequence number noted (R175). -/
structure Candidate where
  sector : SectorNo
  gen : Nat
  seq : Nat
  deriving DecidableEq, Repr

/-- A repair list item (R174): sector, offset and key, and beside them the record's footprint as its walk found it. -/
structure Repair where
  place : Place
  key : Nat
  footprint : Nat
  deriving DecidableEq, Repr

/-- The mount findings (R182). -/
structure Findings where
  incomplete : Nat
  failingCrc : Nat
  chainsBroken : Nat
  duplicates : Nat
  estimated : Nat
  deriving DecidableEq, Repr

/-- No finding (R182). -/
def Findings.zero : Findings := { incomplete := 0, failingCrc := 0, chainsBroken := 0, duplicates := 0, estimated := 0 }

/-- The mount logic: the five things of R174, and what it notes on the way: `wholeRecord` says that the read run outstanding
is of a whole record (or, in HEADERS, of the record area, R176); `noted` the generation of each sector with a valid identity
that is not RETIRED (R175), `seqMax` the highest sequence number (R179), `verMax` the highest trusted version (R183), `cls`
the class that CLASSES stands at (R184), `repairFailed` whether a repair failed (R185). -/
structure Mount where
  phase : MountPhase
  scanSector : SectorNo
  scanOffset : Nat
  candidates : List Candidate
  versionWalk : List SectorNo
  repairs : List Repair
  wholeRecord : Bool
  noted : List (SectorNo × Nat)
  seqMax : Option Nat
  verMax : Nat
  cls : Nat
  repairFailed : Bool
  findings : Findings
  deriving DecidableEq, Repr

/-! ### The whole part -/

/-- Something one block has told another within a step, not yet acted on (the model's own, log entry 4). -/
inductive Signal where
  /-- A plane controller answers a claim at its arrival: ERASING (R23) or HALTED (R36). -/
  | answer (who : Claimant) (a : Answer)
  /-- The moving mark of the key that the request engine waits on has cleared (R86). -/
  | unmarked
  /-- The change hold is released (R84, R85). -/
  | holdReleased
  /-- The BLANK count has changed (R72). -/
  | blankChanged
  /-- The store has entered READ_ONLY (R12). -/
  | storeReadOnly
  /-- A reclaim cycle has ended (R157). -/
  | cycleEnded (how : CycleEnd)
  /-- A request has ended, or the store has left MOUNTING: the engine takes the head of the queue (R104). -/
  | take
  /-- The opening of a sector has ended (section 4.4). -/
  | openingEnded
  /-- FORMAT asks the reclaim engine to stop (R171). -/
  | stopAsked
  deriving DecidableEq, Repr

/-- The state of the part. `flash` lists the bytes of the array that do not read 0xFF, byte address 4096 × sector + offset;
`halted` is the latched power-fail flag (R190), and `resetLow` says that RESET# is held low (R207). `agenda` holds signals between blocks and is empty between steps;
`pending` is the queue of commands that wait, first in, first out. Both are the model's own. -/
structure State where
  win : Window
  eng : Engine
  idx : KeyIndex
  classes : Vector ClassEntry 8
  space : Space
  rcl : Reclaim
  pl0 : Plane
  pl1 : Plane
  faults : FaultCounts
  mnt : Mount
  halted : Bool
  resetLow : Bool
  flash : List Host.Cell
  agenda : List Signal
  pending : List Instr
  deriving DecidableEq, Repr

/-- Why the part stops. -/
inductive Fault where
  /-- A run in service reaches past granule 511 of its sector, where R21 lets no claim go and where the array has no byte of
  that sector. Raised by READ_RUN_DONE, GRANULE_PROGRAM_DONE and PROGRAM_TIMEOUT; safe: no claim the part makes on flash
  that it wrote itself names such a run. -/
  | pastSector
  deriving DecidableEq, Repr

/-- Why a command is turned away. -/
inductive Refusal where
  /-- The command has no meaning in the model yet. Raised by the arms of `exec` alone; safe. -/
  | notModelled (mnemonic : String)
  deriving DecidableEq, Repr

/-! ### Chip-reset values -/

/-- A slot after chip reset (R93). -/
def Slot.reset : Slot :=
  { state := .free, hidden := false, params := Params.zero, code := .ok, fields := ResultFields.zero,
    flags := ResultFlags.none, buffer := [], ptr := 0 }

/-- The window unit after chip reset (R113). -/
def Window.reset : Window :=
  { slots := Vector.replicate 4 Slot.reset, sel := 0, queue := [], iflag := 0, imask := 0, fault := .none,
    lowmk := 4, suslim := 16, wearsp := 32, mode := .auto, busOut := 0 }

/-- The request engine after chip reset (R7, R6, R118, R16). -/
def Engine.reset : Engine := { store := .mounting, writeSeq := 0, corruptReads := 0, req := none }

/-- The key index after chip reset (R92). -/
def KeyIndex.reset : KeyIndex := { entries := [], counts := Vector.replicate 9 0, hold := none, waiter := none }

/-- A sector table entry after chip reset (R76). -/
def SectorEntry.reset : SectorEntry :=
  { state := .erasePending, eraseCount := 0, known := false, seq := none, append := 64, liveCount := 0,
    liveBytes := 0, staleBytes := 0, suspect := false }

/-- The space manager after chip reset (R76). -/
def Space.reset : Space := { sectors := Vector.replicate 64 SectorEntry.reset, gen := 0, seqCtr := 0 }

/-- The reclaim engine after chip reset (R154). -/
def Reclaim.reset : Reclaim :=
  { phase := .idle, act := .idle, cycle := none, pos := 64, step := none, buffer := [], stop := .none,
    noVictim := false, excluded := [] }

/-- A plane controller after chip reset (R22, R37). -/
def Plane.reset : Plane := { run := none, erase := none, waitReq := none, waitRec := none, halted := false }

/-- The mount logic after chip reset (R174, R182). -/
def Mount.reset : Mount :=
  { phase := .headers, scanSector := 0, scanOffset := 0, candidates := [], versionWalk := [], repairs := [],
    wholeRecord := false, noted := [], seqMax := none, verMax := 0, cls := 0, repairFailed := false,
    findings := Findings.zero }

/-- RESET# is held low: every block at its chip-reset value over the flash content given (R207). -/
def State.atReset (flash : List Host.Cell) (pending : List Instr) : State :=
  { win := Window.reset, eng := Engine.reset, idx := KeyIndex.reset,
    classes := Vector.replicate 8 ClassEntry.default, space := Space.reset, rcl := Reclaim.reset,
    pl0 := Plane.reset, pl1 := Plane.reset, faults := { program := 0, erase := 0 }, mnt := Mount.reset,
    halted := false, resetLow := true, flash := flash, agenda := [], pending := pending }

/-- The read run of granules 0 to 3 of sector 0, the first claim of mount (R175). -/
def firstMountRun : Run :=
  { claim := { who := .mount, sector := 0, first := 0, work := .read 4 }, done := 0, stop := false }

/-- The part right after a chip reset that PFI# does not meet, on an array that reads erased throughout (log entry 1): every
block at its chip-reset value and mount begun with its first read run in service (R207, R174, R175). -/
def State.reset : State :=
  { State.atReset [] [] with resetLow := false, pl0 := { Plane.reset with run := some firstMountRun } }

end Sys2Proof.Machine
end

