-- ==== Sys2Proof/Machine/Ops.lean ====
section
/-! DEFINITION. Named operations over the byte stores of the part, flash (R19) and the slot buffers (R93): reading and
writing one byte and runs of bytes, over lists of cells in one canonical form; the byte order of wide fields (section 6 of
00_scope.md); and the plane of a sector. -/

namespace Sys2Proof.Machine

/-! ### Cells -/

/-- The byte at `a`, where an address that is not listed reads `d`. -/
def cellGet (d : Byte) : List Host.Cell → Nat → Byte
  | [], _ => d
  | c :: m, a => if c.1 = a then c.2 else cellGet d m a

/-- The cell put before the first cell of a higher address. -/
def cellInsert (c : Host.Cell) : List Host.Cell → List Host.Cell
  | [] => [c]
  | e :: m => if c.1 < e.1 then c :: e :: m else e :: cellInsert c m

/-- The byte `b` written at `a`; a byte that reads `d` is not listed. -/
def cellSet (d : Byte) (m : List Host.Cell) (a : Nat) (b : Byte) : List Host.Cell :=
  let rest := m.filter (fun c => c.1 != a)
  if b = d then rest else cellInsert (a, b) rest

/-- The canonical form: addresses strictly rise, and no cell holds what an unlisted address reads. -/
def cellsWf (d : Byte) : List Host.Cell → Bool
  | [] => true
  | [c] => c.2 != d
  | c :: e :: m => decide (c.1 < e.1) && c.2 != d && cellsWf d (e :: m)

/-- The bytes written from `a` upward. -/
def cellWrite (d : Byte) (m : List Host.Cell) (a : Nat) : List Byte → List Host.Cell
  | [] => m
  | b :: bs => cellWrite d (cellSet d m a b) (a + 1) bs

/-- The `n` bytes from `a` upward. -/
def cellRead (d : Byte) (m : List Host.Cell) (a : Nat) : Nat → List Byte
  | 0 => []
  | n + 1 => cellGet d m a :: cellRead d m (a + 1) n

/-! ### Flash (R19, R20) -/

/-- The byte address of offset `o` of a sector (R19). -/
def flashAddr (n : SectorNo) (o : Nat) : Nat := n.val * Config.sectorSize + o

/-- One byte of flash; an unlisted byte reads erased. -/
def flashByte (m : List Host.Cell) (n : SectorNo) (o : Nat) : Byte := cellGet Config.erasedByte m (flashAddr n o)

/-- A run of bytes of a sector. -/
def flashRead (m : List Host.Cell) (n : SectorNo) (o len : Nat) : List Byte :=
  cellRead Config.erasedByte m (flashAddr n o) len

/-- A run of bytes put into a sector. -/
def flashWrite (m : List Host.Cell) (n : SectorNo) (o : Nat) (bs : List Byte) : List Host.Cell :=
  cellWrite Config.erasedByte m (flashAddr n o) bs

/-- The cell lies in the sector. -/
def inSector (n : SectorNo) (c : Host.Cell) : Bool :=
  decide (flashAddr n 0 ≤ c.1) && decide (c.1 < flashAddr n Config.sectorSize)

/-- Every byte of the sector reads 0xFF (R19). -/
def flashErase (m : List Host.Cell) (n : SectorNo) : List Host.Cell := m.filter (fun c => !inSector n c)

/-- The sector holds the bytes listed by offset and 0xFF elsewhere (R20). -/
def flashLoad (m : List Host.Cell) (n : SectorNo) (left : List Host.Cell) : List Host.Cell :=
  left.foldl (fun f c => if c.1 < Config.sectorSize then cellSet Config.erasedByte f (flashAddr n c.1) c.2 else f)
    (flashErase m n)

/-- The blank check (R27): no byte of the sector reads other than 0xFF. -/
def flashBlank (m : List Host.Cell) (n : SectorNo) : Bool :=
  m.all (fun c => !inSector n c || c.2 == Config.erasedByte)

/-- Eight bytes of which each is taken from the list, or is `d` past its end. -/
def eightBytes (d : Byte) (l : List Byte) : List Byte := (List.range 8).map (fun i => l.getD i d)

/-- A completed program (R20): a bit is 0 where the previous or the programmed content has 0. -/
def programmed (old new : List Byte) : List Byte := List.zipWith (· &&& ·) old new

/-- A program cut off before completion (R20): each bit at its previous value or at that of the completed program; `kept`
marks the bits that kept the previous one. -/
def cutOff (old new kept : List Byte) : List Byte :=
  List.zipWith (· &&& ·) old (List.zipWith (· ||| ·) new kept)

/-- Every byte of the list reads 0xFF: a granule fully erased (R19). -/
def allErased (g : List Byte) : Bool := g.all (· == Config.erasedByte)

/-! ### Byte order (00_scope.md section 6) -/

/-- The `k` bytes of `n`, least significant first. -/
def toBytes (n : Nat) : Nat → List Byte
  | 0 => []
  | k + 1 => BitVec.ofNat 8 n :: toBytes (n / 256) k

/-- The number whose bytes these are, least significant first. -/
def ofBytes : List Byte → Nat
  | [] => 0
  | b :: bs => b.toNat + 256 * ofBytes bs

/-! ### Sectors and planes -/

/-- The plane of a sector (R19). -/
def planeOf (n : SectorNo) : PlaneId := if n.val < 32 then .p0 else .p1

/-- The sectors in ascending order. -/
def allSectors : List SectorNo := List.ofFn id

/-- The plane controller named. -/
def State.plane (s : State) : PlaneId → Plane
  | .p0 => s.pl0
  | .p1 => s.pl1

/-- The plane controller named, set. -/
def State.setPlane (s : State) (p : PlaneId) (x : Plane) : State :=
  match p with
  | .p0 => { s with pl0 := x }
  | .p1 => { s with pl1 := x }

/-! ### Signals between blocks -/

/-- One block tells another: the signal joins the tail of the agenda. -/
def State.signal (s : State) (x : Signal) : State := { s with agenda := s.agenda ++ [x] }

/-- A counter that stays at 65535 once it reaches it (R38, R118). -/
def bump (n : Nat) : Nat := if n < Config.counterTop then n + 1 else n

end Sys2Proof.Machine
end

