-- ==== Sys2Proof/Machine/Index.lean ====
section
/-! DEFINITION. The key index: its queries (R82, R83), the change hold and the moving mark (R84 to R87), the publishing claims
(R88 to R90), and the mount claim offer (R91). Every claim is taken whole. -/

namespace Sys2Proof.Machine

/-! ### Entries and counts (R78, R79) -/

/-- The place of a class's count: classes 0 to 7 at 0 to 7, class 15 at 8 (R79). -/
def countNo (cls : Nat) : Fin 9 := if h : cls < 8 then ⟨cls, by omega⟩ else 8

/-- The live record count of a class (R79). -/
def KeyIndex.count (x : KeyIndex) (cls : Nat) : Nat := x.counts[countNo cls]

/-- 1 added to the count of a class. -/
def countUp (v : Vector Nat 9) (cls : Nat) : Vector Nat 9 := v.set (countNo cls) (v[countNo cls] + 1)
/-- 1 subtracted from the count of a class. -/
def countDown (v : Vector Nat 9) (cls : Nat) : Vector Nat 9 := v.set (countNo cls) (v[countNo cls] - 1)

/-- A count moved from one class to another; the same class keeps its count (R79). -/
def countMove (v : Vector Nat 9) (old new : Nat) : Vector Nat 9 :=
  if countNo old = countNo new then v else countUp (countDown v old) new

/-- The entry put in its place in key order (R88). -/
def entryInsert (e : Entry) : List Entry → List Entry
  | [] => [e]
  | x :: l => if e.key < x.key then e :: x :: l else x :: entryInsert e l

/-- The entry of a key changed, and the others kept. -/
def entryUpdate (key : Nat) (f : Entry → Entry) (l : List Entry) : List Entry :=
  l.map (fun e => if e.key = key then f e else e)

/-! ### Queries -/

/-- Lookup (R82): the entry of the key, or absent. -/
def KeyIndex.lookup (x : KeyIndex) (key : Nat) : Option Entry := x.entries.find? (fun e => e.key == key)

/-- The key is held under the change hold (R82). -/
def KeyIndex.held (x : KeyIndex) (key : Nat) : Bool := x.hold == some key

/-- The entry matches a successor claim (R83): its class lies in 0 to 7 and its bit is set in the mask, or its class is 15 and
system keys are included. -/
def Entry.selected (e : Entry) (mask : Byte) (system : Bool) : Bool :=
  (decide (e.cls ≤ 7) && mask.getLsbD e.cls) || (e.cls == 15 && system)

/-- Successor (R83): the matching entry with the smallest key greater than the start key, or END. -/
def KeyIndex.successor (x : KeyIndex) (start : Nat) (mask : Byte) (system : Bool) : Option Entry :=
  x.entries.find? (fun e => decide (start < e.key) && e.selected mask system)

/-! ### The change hold and the moving mark -/

/-- Take-hold (R84): `none` is the answer MOVING; otherwise the hold is set and the entry as it stands is answered. -/
def KeyIndex.takeHold (x : KeyIndex) (key : Nat) : Option (KeyIndex × Option Entry) :=
  match x.lookup key with
  | some e => if e.moving then none else some ({ x with hold := some key }, some e)
  | none => some ({ x with hold := some key }, none)

/-- The answers to mark-moving (R85). MARKED carries the entry. -/
inductive MarkAnswer where
  | held
  | notCurrent
  | marked (e : Entry)
  deriving DecidableEq, Repr

/-- Mark-moving (R85), naming the key and the place. -/
def KeyIndex.markMoving (x : KeyIndex) (key : Nat) (at_ : Place) : KeyIndex × MarkAnswer :=
  if x.held key then (x, .held)
  else
    match x.lookup key with
    | none => (x, .notCurrent)
    | some e =>
      if e.place = at_ then ({ x with entries := entryUpdate key (fun e => { e with moving := true }) x.entries }, .marked e)
      else (x, .notCurrent)

/-- Clear-moving (R86): the mark of the key's entry, if any, is cleared. -/
def KeyIndex.clearMoving (x : KeyIndex) (key : Nat) : KeyIndex :=
  { x with entries := entryUpdate key (fun e => { e with moving := false }) x.entries }

/-- Relocate (R87): `none` is the answer NOT_CURRENT. -/
def KeyIndex.relocate (x : KeyIndex) (key : Nat) (original copy : Place) : Option KeyIndex :=
  match x.lookup key with
  | some e =>
    if e.place = original then some { x with entries := entryUpdate key (fun e => { e with place := copy }) x.entries } else none
  | none => none

/-! ### Publishing -/

/-- The answers to insert (R88). -/
inductive InsertAnswer where
  | inserted | full | present
  deriving DecidableEq, Repr

/-- Insert (R88). -/
def KeyIndex.insert (x : KeyIndex) (e : Entry) : KeyIndex × InsertAnswer :=
  if Config.indexCapacity ≤ x.entries.length then (x, .full)
  else if (x.lookup e.key).isSome then (x, .present)
  else ({ x with entries := entryInsert { e with moving := false } x.entries, counts := countUp x.counts e.cls }, .inserted)

/-- The five fields of an entry taken from a new record (R89). -/
def Entry.take (e new : Entry) : Entry :=
  { e with cls := new.cls, place := new.place, length := new.length, version := new.version }

/-- Replace (R89): `none` is the answer ABSENT. -/
def KeyIndex.replace (x : KeyIndex) (new : Entry) : Option KeyIndex :=
  match x.lookup new.key with
  | some old =>
    some { x with entries := entryUpdate new.key (fun e => e.take new) x.entries, counts := countMove x.counts old.cls new.cls }
  | none => none

/-- Remove (R90): `none` is the answer ABSENT. -/
def KeyIndex.remove (x : KeyIndex) (key : Nat) : Option KeyIndex :=
  match x.lookup key with
  | some old =>
    some { x with entries := x.entries.filter (fun e => e.key != key), counts := countDown x.counts old.cls }
  | none => none

/-! ### Offer (R91) -/

/-- The candidate wins against the record the entry points at (R91): by version, then by the sequence number of the sector, then,
in one sector, by offset, and in two sectors of one sequence number by sector number. `seqOld` and `seqNew` are the sequence
numbers of the two sectors. -/
def offerWins (old new : Entry) (seqOld seqNew : Nat) : Bool :=
  if new.version ≠ old.version then decide (old.version < new.version)
  else if new.place.sector = old.place.sector then decide (old.place.offset < new.place.offset)
  else if seqNew ≠ seqOld then decide (seqOld < seqNew)
  else decide (old.place.sector < new.place.sector)

/-- Offer (R91): the index after it, and the record handed back to the mount logic for its repair list, if any (a loser, or the
candidate on FULL). `seqOf` gives the sequence number of a sector from the sector table. -/
def KeyIndex.offer (x : KeyIndex) (new : Entry) (seqOf : SectorNo → Nat) : KeyIndex × Option Place :=
  match x.lookup new.key with
  | none =>
    match x.insert new with
    | (y, .inserted) => (y, none)
    | (y, _) => (y, some new.place)
  | some old =>
    if offerWins old new (seqOf old.place.sector) (seqOf new.place.sector) then
      ({ x with entries := entryUpdate new.key (fun e => e.take new) x.entries, counts := countMove x.counts old.cls new.cls },
        some old.place)
    else (x, some new.place)

end Sys2Proof.Machine
end

