-- ==== Sys2Proof/Machine/Flags.lean ====
section
/-! DEFINITION. The interrupt flags and INT# (R109, R110, R201), the window fault (R108), and every change of the store
state with the flag it raises (R7). -/

namespace Sys2Proof.Machine

/-- The eight interrupt flags (R109). -/
inductive IntFlag where
  | slotDone (n : SlotNo)
  | spaceLow
  | stateChg
  | fault
  | reclaimDone
  deriving DecidableEq, Repr

/-- The bit of IFLAG and IMASK that a flag has (R201). -/
def IntFlag.bit : IntFlag → Nat
  | .slotDone n => n.val
  | .spaceLow => 4
  | .stateChg => 5
  | .fault => 6
  | .reclaimDone => 7

/-- The byte with that bit alone set. -/
def IntFlag.mask (f : IntFlag) : Byte := BitVec.ofNat 8 (2 ^ f.bit)

/-- The flag raised in IFLAG; a flag already set stays set (R109). -/
def Window.raise (w : Window) (f : IntFlag) : Window := { w with iflag := w.iflag ||| f.mask }

/-- The flag cleared in IFLAG. -/
def Window.lower (w : Window) (f : IntFlag) : Window := { w with iflag := w.iflag &&& ~~~f.mask }

/-- The flag is set in IFLAG. -/
def Window.flag (w : Window) (f : IntFlag) : Bool := w.iflag.getLsbD f.bit

/-- The flag raised. -/
def State.raise (s : State) (f : IntFlag) : State := { s with win := s.win.raise f }

/-- INT# is asserted (driven low) exactly when some flag set in IFLAG is enabled in IMASK (R110). -/
def State.intAsserted (s : State) : Bool := (s.win.iflag &&& s.win.imask) != 0

/-- A window fault recorded: the fault code takes its value and FAULT is raised (R108). -/
def State.windowFault (s : State) (f : WindowFault) : State :=
  { s with win := { s.win with fault := f, iflag := s.win.iflag ||| IntFlag.fault.mask } }

/-- The store state set (R7): STATE_CHG is raised where the value changes. Entering READY clears the no-victim latch (R161);
entering READ_ONLY is signalled (R12). HALTED is left by chip reset alone, and a cause that arises in it is dropped (R10, R14). -/
def State.setStore (s : State) (x : StoreState) : State :=
  if s.eng.store = x ∨ s.eng.store = .halted then s
  else
    let t := { s with eng := { s.eng with store := x }, win := s.win.raise .stateChg }
    match x with
    | .ready => { t with rcl := { t.rcl with noVictim := false } }
    | .readOnly => t.signal .storeReadOnly
    | _ => t

/-- READ_ONLY declared to the request engine: it takes effect in READY alone (R10, R71). -/
def State.declareReadOnly (s : State) : State := if s.eng.store = .ready then s.setStore .readOnly else s

/-- The byte that RFLG shows (R205). -/
def ResultFlags.toByte (f : ResultFlags) : Byte :=
  BitVec.ofNat 8 (f.abortLate.toNat + 2 * f.replaced.toNat + 4 * f.retried.toNat + 8 * f.waited.toNat +
    16 * f.noVictim.toNat + 32 * f.oldKept.toNat)

/-- The value that RES shows (section 1.7). -/
def ResultCode.toByte : ResultCode → Byte
  | .ok => 0x00
  | .aborted => 0x01
  | .notFound => 0x02
  | .versionMismatch => 0x03
  | .exists_ => 0x04
  | .keyInvalid => 0x05
  | .keyReserved => 0x06
  | .lengthInvalid => 0x07
  | .classInvalid => 0x08
  | .policyRefused => 0x09
  | .quotaExceeded => 0x0A
  | .indexFull => 0x0B
  | .storeFull => 0x0C
  | .readOnly => 0x0D
  | .notReady => 0x0E
  | .corrupt => 0x0F
  | .writeFault => 0x10
  | .powerFail => 0x11
  | .badRequest => 0x12
  | .ended => 0x13
  | .formatLimit => 0x14

/-- The value that FAULT shows (R108). -/
def WindowFault.toByte : WindowFault → Byte
  | .none => 0
  | .actionState => 1
  | .paramState => 2
  | .bufferState => 3
  | .selectRange => 4
  | .actionCode => 5

/-- The code of STATE bits 0 to 2 (R200). -/
def StoreState.code : StoreState → Nat
  | .mounting => 0
  | .unformatted => 1
  | .ready => 2
  | .readOnly => 3
  | .formatting => 4
  | .halted => 5

end Sys2Proof.Machine
end

