-- ==== Sys2Proof/Machine/Operands.lean ====
section
/-! DEFINITION. What the parameter bytes of a slot mean to the request engine (R205), the key ranges of section 1.2, and the
operand bytes of the clamped window bytes (R202). -/

namespace Sys2Proof.Machine

/-- The request codes (R205). -/
def codeRead : Byte := 0x01
/-- The request codes (R205). -/
def codeWrite : Byte := 0x02
/-- The request codes (R205). -/
def codeDelete : Byte := 0x03
/-- The request codes (R205). -/
def codeFindNext : Byte := 0x04
/-- The request codes (R205). -/
def codeReport : Byte := 0x05
/-- The request codes (R205). -/
def codeReclaim : Byte := 0x06
/-- The request codes (R205). -/
def codeClassSet : Byte := 0x07
/-- The request codes (R205). -/
def codeClassFreeze : Byte := 0x08
/-- The request codes (R205). -/
def codeFormat : Byte := 0x09

/-- The key parameter, low byte in KEYL (R205). -/
def Params.key (p : Params) : Nat := ofBytes [p.keyL, p.keyH]
/-- The expected version, VER0 the least significant byte (R205). -/
def Params.version (p : Params) : Nat := ofBytes [p.ver0, p.ver1, p.ver2, p.ver3]
/-- The class parameter (R205). -/
def Params.clsNo (p : Params) : Nat := p.cls.toNat
/-- The length parameter (R205). -/
def Params.length (p : Params) : Nat := p.len.toNat
/-- The option IF_VERSION, bit 0 of OPT (R205). -/
def Params.ifVersion (p : Params) : Bool := p.opt.getLsbD 0
/-- The option IF_ABSENT, bit 1 of OPT (R205). -/
def Params.ifAbsent (p : Params) : Bool := p.opt.getLsbD 1
/-- The option INCLUDE_SYSTEM, bit 2 of OPT (R205). -/
def Params.includeSystem (p : Params) : Bool := p.opt.getLsbD 2

/-- The first check of R15 fails: a code other than 0x01 to 0x09, or IF_VERSION together with IF_ABSENT. -/
def Params.bad (p : Params) : Bool :=
  !(decide (1 ≤ p.rq.toNat) && decide (p.rq.toNat ≤ 9)) || (p.ifVersion && p.ifAbsent)

/-- The request has the code given and passes the first check of R15. -/
def Params.isCode (code : Byte) (p : Params) : Bool := p.rq == code && !p.bad

/-- A parameter byte stored as written (R96). -/
def Params.put (p : Params) (which : ParamByte) (v : Byte) : Params :=
  match which with
  | .rq => { p with rq := v }
  | .opt => { p with opt := v }
  | .keyL => { p with keyL := v }
  | .keyH => { p with keyH := v }
  | .cls => { p with cls := v }
  | .len => { p with len := v }
  | .ver0 => { p with ver0 := v }
  | .ver1 => { p with ver1 := v }
  | .ver2 => { p with ver2 := v }
  | .ver3 => { p with ver3 := v }

/-- A stored parameter byte. -/
def Params.get (p : Params) : ParamByte → Byte
  | .rq => p.rq
  | .opt => p.opt
  | .keyL => p.keyL
  | .keyH => p.keyH
  | .cls => p.cls
  | .len => p.len
  | .ver0 => p.ver0
  | .ver1 => p.ver1
  | .ver2 => p.ver2
  | .ver3 => p.ver3

/-- The five actions (R204). -/
inductive HostAction where
  | claim | submit | discard | abort | release
  deriving DecidableEq, Repr

/-- The action that a value written to ACTION names (R204). -/
def actionOf (v : Byte) : Option HostAction :=
  match v.toNat with
  | 1 => some .claim
  | 2 => some .submit
  | 3 => some .discard
  | 4 => some .abort
  | 5 => some .release
  | _ => none

/-- A key in 0xFF00 to 0xFF07 (R3). -/
def keyIsSystem (k : Nat) : Bool := decide (0xFF00 ≤ k) && decide (k ≤ 0xFF07)
/-- A key of 0x0000 or in 0xFF08 upward (R3). -/
def keyIsInvalid (k : Nat) : Bool := k == 0 || decide (0xFF08 ≤ k)

/-- A value clamped to the nearer end of a range (R202). -/
def clamp (lo hi n : Nat) : Nat := if n < lo then lo else if hi < n then hi else n

end Sys2Proof.Machine
end

