-- ==== Sys2Proof/Machine/Plane.lean ====
section
/-! DEFINITION. The plane controllers (chapter 2): claims and their grant, waiting and arbitration (R21 to R23, R30 to R35), stopping and
withdrawing (R21, R23, R26), and what a controller does when a run or an erase ends. -/

namespace Sys2Proof.Machine

/-- How many granules a claim's run covers (R21). -/
def Work.granules : Work → Nat
  | .read n => n
  | .program data _ => data.length / 8
  | .erase => 0

/-- The claim is for an erase. -/
def Work.isErase : Work → Bool
  | .erase => true
  | _ => false

/-- The overall condition of a plane controller (R22). -/
def Plane.condition (p : Plane) : PlaneState :=
  match p.erase, p.run with
  | none, none => .idle
  | none, some r => match r.claim.work with
    | .program _ _ => .programming
    | _ => .reading
  | some e, r =>
    match e.cond, r with
    | .running, _ => .erasing
    | .suspending, _ => .suspending
    | .suspended, none => .suspended
    | .suspended, some r => match r.claim.work with
      | .program _ _ => .suspendedProgramming
      | _ => .suspendedReading

/-- A claim granted: a run goes into service, or an erase begins with its suspend count 0 and SUSLIM latched (R27). -/
def Plane.grant (p : Plane) (suslim : Nat) (c : Claim) : Plane :=
  match c.work with
  | .erase => { p with erase := some { who := c.who, sector := c.sector, cond := .running, count := 0, limit := suslim } }
  | _ => { p with run := some { claim := c, done := 0, stop := false } }

/-- A plane that has become free with no erase grants a waiting claim of the request engine, and otherwise one of the
reclaim engine (R35). -/
def Plane.regrant (p : Plane) (suslim : Nat) : Plane :=
  match p.waitReq with
  | some c => { p with waitReq := none }.grant suslim c
  | none =>
    match p.waitRec with
    | some c => { p with waitRec := none }.grant suslim c
    | none => p

/-- A suspended plane with no run serves a waiting run of the request engine, and otherwise resumes its erase (R31, R32). -/
def Plane.serveOrResume (p : Plane) (suslim : Nat) (e : EraseOp) : Plane :=
  match p.waitReq with
  | some c => if c.work.isErase then { p with erase := some { e with cond := .running } }
    else { p with waitReq := none }.grant suslim c
  | none => { p with erase := some { e with cond := .running } }

/-- The run in service has ended: the plane grants what waits, or resumes its erase (R32, R35). A halted plane grants nothing
(R36). -/
def Plane.finishRun (p : Plane) (suslim : Nat) : Plane :=
  let q := { p with run := none }
  if q.halted then q
  else
    match q.erase with
    | none => q.regrant suslim
    | some e => match e.cond with
      | .suspended => q.serveOrResume suslim e
      | _ => q

/-- The erase has ended (R27, R28): its condition becomes none and the plane grants what waits (R34, R35). -/
def Plane.finishErase (p : Plane) (suslim : Nat) : Plane :=
  let q := { p with erase := none }
  if q.run.isSome || q.halted then q else q.regrant suslim

/-- A claim of the request engine waits; where the erase is running below its latched limit, a suspension is ordered (R30). -/
def Plane.waitRequest (p : Plane) (e : EraseOp) (c : Claim) : Plane :=
  if e.cond = .running ∧ e.count < e.limit ∧ c.work.isErase = false then
    { p with waitReq := some c, erase := some { e with cond := .suspending } }
  else { p with waitReq := some c }

/-- A claim that finds an erase of another sector on its plane (R30, R32). -/
def Plane.arriveInErase (p : Plane) (suslim : Nat) (e : EraseOp) (c : Claim) : Plane :=
  match c.who with
  | .request =>
    if e.cond = .suspended ∧ p.run = none ∧ c.work.isErase = false then p.grant suslim c else p.waitRequest e c
  | .reclaim => { p with waitRec := some c }
  | .mount => p.grant suslim c

/-- A claim that finds no erase on its plane: granted if the plane is free, and otherwise waiting (R21, R35). The claims of the
mount logic never wait (R21). -/
def Plane.arriveFree (p : Plane) (suslim : Nat) (c : Claim) : Plane :=
  if p.run.isNone then p.grant suslim c
  else
    match c.who with
    | .request => { p with waitReq := some c }
    | .reclaim => { p with waitRec := some c }
    | .mount => p.grant suslim c

/-- A claim arrives at the controller of its sector's plane: answered HALTED where the plane is halted (R36), ERASING where it
names the sector of the erase (R23), and otherwise granted or left waiting. -/
def State.claim (s : State) (c : Claim) : State :=
  let id := planeOf c.sector
  let p := s.plane id
  if p.halted then s.signal (.answer c.who (.halted [] 0))
  else
    match p.erase with
    | none => s.setPlane id (p.arriveFree s.win.suslim c)
    | some e =>
      if e.sector = c.sector then s.signal (.answer c.who .erasing)
      else s.setPlane id (p.arriveInErase s.win.suslim e c)

/-- A read run claimed (R21). -/
def State.claimRead (s : State) (who : Claimant) (n : SectorNo) (first count : Nat) : State :=
  s.claim { who := who, sector := n, first := first, work := .read count }

/-- A program run claimed (R21). -/
def State.claimProgram (s : State) (who : Claimant) (n : SectorNo) (first : Nat) (data : List Byte) (mode : Verify) : State :=
  s.claim { who := who, sector := n, first := first, work := .program data mode }

/-- An erase claimed (R21). -/
def State.claimErase (s : State) (who : Claimant) (n : SectorNo) : State :=
  s.claim { who := who, sector := n, first := 0, work := .erase }

/-! ### Outstanding claims -/

/-- The plane has a waiting claim of the claimant. -/
def Plane.waits (p : Plane) : Claimant → Bool
  | .request => p.waitReq.isSome
  | .reclaim => p.waitRec.isSome
  | .mount => false

/-- The claimant has a claim waiting at a plane. -/
def State.claimWaits (s : State) (who : Claimant) : Bool := s.pl0.waits who || s.pl1.waits who

/-- The plane has a run of the claimant in service. -/
def Plane.serves (p : Plane) (who : Claimant) : Bool :=
  match p.run with
  | some r => r.claim.who == who
  | none => false

/-- The claimant has a run in service. -/
def State.runInService (s : State) (who : Claimant) : Bool := s.pl0.serves who || s.pl1.serves who

/-- A waiting claim withdrawn at a plane (R21). -/
def Plane.withdraw (p : Plane) : Claimant → Plane
  | .request => { p with waitReq := none }
  | .reclaim => { p with waitRec := none }
  | .mount => p

/-- The claimant withdraws its waiting claim (R21); it ends without any flash access and without an answer, and a suspension
ordered for it goes on (R31). -/
def State.withdraw (s : State) (who : Claimant) : State :=
  { s with pl0 := s.pl0.withdraw who, pl1 := s.pl1.withdraw who }

/-- A run in service asked to stop at a plane (R23, R26). -/
def Plane.askStop (p : Plane) (who : Claimant) : Plane :=
  match p.run with
  | some r => if r.claim.who = who then { p with run := some { r with stop := true } } else p
  | none => p

/-- The claimant asks its run in service to stop (R23, R26). -/
def State.askStop (s : State) (who : Claimant) : State :=
  { s with pl0 := s.pl0.askStop who, pl1 := s.pl1.askStop who }

/-- The plane's erase is suspended (R22): the plane is SUSPENDED, SUSPENDED_READING or SUSPENDED_PROGRAMMING. -/
def Plane.suspended (p : Plane) : Bool :=
  match p.erase with
  | some e => e.cond == .suspended
  | none => false

/-- A plane controller halted (R36): nothing waits any more, and an erase is abandoned. A run in service goes on to the end of its
granule. -/
def Plane.halt (p : Plane) : Plane := { p with halted := true, waitReq := none, waitRec := none, erase := none }

end Sys2Proof.Machine
end

