-- ==== Sys2Proof/Machine/Format.lean ====
section
/-! DEFINITION. The on-flash format (chapter 3): the granules of the sector header, the granules of a record, the CRC-16, and
the reading rules that run time and mount share. -/

namespace Sys2Proof.Machine

/-! ### Sector header (R39 to R44) -/

/-- The exclusive or of the bytes. -/
def xorBytes (l : List Byte) : Byte := l.foldl (· ^^^ ·) 0

/-- The identity granule (R40): format mark, store generation, erase count, header check. -/
def identityGranule (gen count : Nat) : List Byte :=
  let m : List Byte := [0x6D, 0x1E] ++ toBytes gen 2 ++ toBytes count 3
  m ++ [xorBytes m ^^^ 0x5A]

/-- What an identity granule reads as (R41). -/
inductive IdentityRead where
  | erased
  | valid (gen count : Nat)
  | damaged
  deriving DecidableEq, Repr

/-- The reading of an identity granule (R41). -/
def readIdentity (g : List Byte) : IdentityRead :=
  if allErased g then .erased
  else if g.take 2 = [0x6D, 0x1E] ∧ ofBytes ((g.drop 2).take 2) ≠ 0 ∧ g.getD 7 0 = xorBytes (g.take 7) ^^^ 0x5A then
    .valid (ofBytes ((g.drop 2).take 2)) (ofBytes ((g.drop 4).take 3))
  else .damaged

/-- The role code of an open granule (R42). -/
def roleHost : Byte := 0x01
/-- The role code of an open granule (R42). -/
def roleMove : Byte := 0x02

/-- The open granule (R42): sector sequence number, role, open check, two bytes left at 0xFF. -/
def openGranule (seq : Nat) (role : Byte) : List Byte :=
  let m : List Byte := toBytes seq 4 ++ [role]
  m ++ [xorBytes m ^^^ 0xA5, 0xFF, 0xFF]

/-- What an open granule reads as (R42). -/
inductive OpenRead where
  | erased
  | valid (seq : Nat) (role : Byte)
  | damaged
  deriving DecidableEq, Repr

/-- The reading of an open granule (R42). -/
def readOpen (g : List Byte) : OpenRead :=
  if allErased g then .erased
  else if (g.getD 4 0 = roleHost ∨ g.getD 4 0 = roleMove) ∧ g.getD 5 0 = xorBytes (g.take 5) ^^^ 0xA5 ∧ g.drop 6 = [0xFF, 0xFF] then
    .valid (ofBytes (g.take 4)) (g.getD 4 0)
  else .damaged

/-- The identity granule reads valid (R41). -/
def IdentityRead.isValid : IdentityRead → Bool
  | .valid _ _ => true
  | _ => false

/-- The open granule reads valid (R42). -/
def OpenRead.isValid : OpenRead → Bool
  | .valid _ _ => true
  | _ => false

/-- A header of 32 bytes by which mount makes its sector ERASE_PENDING (R175): the sector is not retired, and its erase mark is taken, or
its identity is erased or damaged, or its open granule is damaged. -/
def headerPending (h : List Byte) : Bool :=
  let id := readIdentity (h.take 8)
  let op := readOpen ((h.drop 8).take 8)
  allErased ((h.drop 16).take 8) &&
    (!allErased ((h.drop 24).take 8) || !id.isValid || !(op.isValid || op == .erased))

/-- A header that an erase cut off may leave of the header `old` (R20, R37, R196): one that mount makes ERASE_PENDING, whose identity is
damaged, erased or as it was. Its other granules may hold what the erase made of them. -/
def cutHeader (old h : List Byte) : Bool := headerPending h && (!(readIdentity (h.take 8)).isValid || h.take 8 == old.take 8)

/-- The content of a retire mark or an erase mark (R43, R44, R50). -/
def markGranule : List Byte := List.replicate 8 0

/-- The header granule numbers (R39). -/
def identityNo : Nat := 0
/-- The header granule numbers (R39). -/
def openNo : Nat := 1
/-- The header granule numbers (R39). -/
def sectorRetireNo : Nat := 2
/-- The header granule numbers (R39). -/
def eraseMarkNo : Nat := 3

/-! ### Records (R45 to R49) -/

/-- The footprint of a record (R45). -/
def footprint (length : Nat) : Nat := 24 + 8 * ((length + 7) / 8)

/-- A descriptor granule's fields (R46). -/
structure Descriptor where
  key : Nat
  cls : Nat
  length : Nat
  version : Nat
  deriving DecidableEq, Repr

/-- The descriptor granule (R46). -/
def descriptorGranule (d : Descriptor) : List Byte :=
  toBytes d.key 2 ++ [BitVec.ofNat 8 d.cls, BitVec.ofNat 8 d.length] ++ toBytes d.version 4

/-- The fields that a descriptor granule reads (R46). -/
def readDescriptor (g : List Byte) : Descriptor :=
  { key := ofBytes (g.take 2), cls := (g.getD 2 0).toNat, length := (g.getD 3 0).toNat, version := ofBytes ((g.drop 4).take 4) }

/-- A key that names a user record (section 1.2). -/
def userKey (k : Nat) : Bool := decide (1 ≤ k) && decide (k ≤ 0xFEFF)
/-- A key that names a system record (section 1.2). -/
def systemKey (k : Nat) : Bool := decide (0xFF00 ≤ k) && decide (k ≤ 0xFF07)

/-- A descriptor that is neither erased nor a break but of no form that the 6440 writes (R46). -/
def malformed (d : Descriptor) : Bool :=
  !((userKey d.key && decide (d.cls ≤ 7)) || (systemKey d.key && d.cls == 15))

/-- The payload granules of a record (R47): the payload, then 0xFF up to a multiple of 8. -/
def paddedPayload (payload : List Byte) : List Byte :=
  payload ++ List.replicate ((8 - payload.length % 8) % 8) Config.erasedByte

/-- One bit of the CRC-16 (R48): shift left, and XOR 0x1021 if the bit shifted out was 1. -/
def crcBit (r : BitVec 16) : BitVec 16 := if r.getLsbD 15 then (r <<< 1) ^^^ 0x1021 else r <<< 1

/-- One byte of the CRC-16 (R48). -/
def crcByte (r : BitVec 16) (b : Byte) : BitVec 16 :=
  let r := r ^^^ (b.zeroExtend 16 <<< 8)
  crcBit (crcBit (crcBit (crcBit (crcBit (crcBit (crcBit (crcBit r)))))))

/-- The CRC-16 (R48). -/
def crc16 (l : List Byte) : BitVec 16 := l.foldl crcByte 0xFFFF

/-- The commit pattern (R49). -/
def commitPattern : List Byte := [0xA5, 0x0F, 0x5A, 0xF0, 0xC3, 0x3C]

/-- The commit granule (R49) of a record with this descriptor granule and payload. -/
def commitGranule (descriptor payload : List Byte) : List Byte :=
  toBytes (crc16 (descriptor ++ payload)).toNat 2 ++ commitPattern

/-! ### Reading a record (R52, R53, R55) -/

/-- What the walk finds at an offset (R52). -/
inductive ChainStep where
  | ended
  | broken
  | record (footprint : Nat)
  deriving DecidableEq, Repr

/-- Step 1 of R52: fewer than 24 bytes remain. -/
def chainPastEnd (o : Nat) : Bool := decide (4072 < o)

/-- Steps 2 to 5 of R52, on the descriptor granule at offset `o`. -/
def chainStep (o : Nat) (g : List Byte) : ChainStep :=
  if allErased g then .ended
  else
    let d := readDescriptor g
    if d.length > Config.maxLength ∨ d.key = 0 ∨ d.key = 0xFFFF then .broken
    else if o + footprint d.length > Config.sectorSize then .broken
    else .record (footprint d.length)

/-- The verdicts on a record (R53). -/
inductive Verdict where
  | retired | uncommitted | failingCrc | live
  deriving DecidableEq, Repr

/-- The commit granule holds exactly the commit pattern (R49). -/
def patternExact (rec : List Byte) : Bool := (rec.drop 10).take 6 == commitPattern

/-- The CRC that the commit granule holds matches the record as read (R49, R55). -/
def crcMatches (rec : List Byte) (length : Nat) : Bool :=
  ofBytes ((rec.drop 8).take 2) == (crc16 (rec.take 8 ++ (rec.drop 24).take length)).toNat

/-- The verdict on the bytes of a record's footprint (R53). -/
def verdict (rec : List Byte) : Verdict :=
  let d := readDescriptor (rec.take 8)
  if !allErased ((rec.drop 16).take 8) then .retired
  else if malformed d then .uncommitted
  else if !patternExact rec then .uncommitted
  else if !crcMatches rec d.length then .failingCrc
  else .live

/-- The run-time check of a record against the entry that led to it (R55). -/
def recordPasses (rec : List Byte) (e : Entry) : Bool :=
  patternExact rec && crcMatches rec e.length &&
    readDescriptor (rec.take 8) == { key := e.key, cls := e.cls, length := e.length, version := e.version }

/-- A record of a walk (R52). -/
structure Walked where
  offset : Nat
  descriptor : Descriptor
  verdict : Verdict
  deriving DecidableEq, Repr

/-- What a walk yields (R52): the records, the chain end, and whether the chain broke. -/
structure Walk where
  records : List Walked
  chainEnd : Nat
  broke : Bool
  deriving DecidableEq, Repr

/-- The walk of a sector from offset `o`, over at most `fuel` records (R52). -/
def walkFrom (m : List Host.Cell) (n : SectorNo) : Nat → Nat → Walk
  | 0, o => { records := [], chainEnd := o, broke := false }
  | fuel + 1, o =>
    if chainPastEnd o then { records := [], chainEnd := o, broke := false }
    else
      match chainStep o (flashRead m n o 8) with
      | .ended => { records := [], chainEnd := o, broke := false }
      | .broken => { records := [], chainEnd := o, broke := true }
      | .record fp =>
        let rec' := flashRead m n o fp
        let w := walkFrom m n fuel (o + fp)
        { w with records := { offset := o, descriptor := readDescriptor (rec'.take 8), verdict := verdict rec' } :: w.records }

/-- The walk of a sector (R52): a record area holds at most 168 records (R45), so 169 turns reach the chain end. -/
def walkSector (m : List Host.Cell) (n : SectorNo) : Walk := walkFrom m n 169 Config.recordArea

/-! ### What a program that does not complete leaves (R54, R51) -/

/-- The granules of EXACT runs of which a rule says how they read after a program that did not complete (R54, R51), and the others. -/
inductive GranuleRole where
  | identity | opening | commit | other
  deriving DecidableEq, Repr

/-- The role of granule `g` of a sector, which a run with `data` programs behind a granule that holds `before`. A commit granule is a run of
its own that carries the commit pattern, behind the descriptor (R45, R49); in front of a payload granule that carries the pattern stands
the record's retire granule, which is erased (R51). -/
def granuleRole (g : Nat) (data before : List Byte) : GranuleRole :=
  if g = identityNo then .identity
  else if g = openNo then .opening
  else if data.drop 2 = commitPattern ∧ allErased before = false then .commit
  else .other

/-- A content that a fault of an EXACT run may leave (R54): no valid identity, no valid open granule, no commit granule as it was given.
Of a descriptor and a payload granule R54 asks that the record read incomplete, and without its commit it does. DESIGN CHOICE (log entry
39): where R54 lets a faulted header granule read erased and R196's row after a halt says damaged, R54 is followed, after a halt too. -/
def faultContent (role : GranuleRole) (given c : List Byte) : Bool :=
  match role with
  | .identity => !(readIdentity c).isValid
  | .opening => !(readOpen c).isValid
  | .commit => c != given
  | .other => true

/-- What a program fault of an EXACT run leaves of a granule: the content found there, and where R54 does not let a fault leave that, the
previous content (log entry 7). -/
def faultLeaves (role : GranuleRole) (old given c : List Byte) : List Byte := if faultContent role given c then c else old

/-- A content that a program cut off may leave (R20): any, with every bit taken too, but no commit granule as it was given, since the record
reads incomplete (R51), and no valid identity other than the one given (R41). -/
def cutContent (role : GranuleRole) (given c : List Byte) : Bool :=
  match role with
  | .identity => !(readIdentity c).isValid || c == given
  | .commit => c != given
  | .opening => true
  | .other => true

/-- What a program that a chip reset cuts off leaves of a granule (R37): the content found there, and where R51 or R41 does not let a cut-off
leave that, the previous content (log entry 7). -/
def cutLeaves (role : GranuleRole) (old given c : List Byte) : List Byte := if cutContent role given c then c else old

end Sys2Proof.Machine
end

