-- ==== Sys2Proof/Machine/Space.lean ====
section
/-! DEFINITION. The space manager (chapter 4): the sector table and its transitions, placing and giving back, live and stale
bytes, closing, retirement, the BLANK count with SPACE_LOW, and the figures for REPORT and for the wear spread. -/

namespace Sys2Proof.Machine

/-! ### Reading the table -/

/-- A sector table entry. -/
def State.sector (s : State) (n : SectorNo) : SectorEntry := s.space.sectors[n]

/-- The sector is in use (R56). -/
def SectorEntry.inUse (e : SectorEntry) : Bool :=
  e.state == .hostOpen || e.state == .moveOpen || e.state == .full || e.state == .victim

/-- The sector is open (R58). -/
def SectorEntry.isOpen (e : SectorEntry) : Bool := e.state == .hostOpen || e.state == .moveOpen

/-- Free bytes (R56). -/
def SectorEntry.free (e : SectorEntry) : Nat := Config.sectorSize - e.append

/-- How many sectors are in a state. -/
def Space.countState (x : Space) (st : SectorState) : Nat := x.sectors.toList.countP (fun e => e.state == st)

/-- The BLANK count (R72). -/
def Space.blankCount (x : Space) : Nat := x.countState .blank

/-- How many sectors are usable (R58, R71). -/
def Space.usableCount (x : Space) : Nat := x.sectors.toList.countP (fun e => e.state != .retired)

/-- The lowest-numbered sector in a state. -/
def Space.findState (x : Space) (st : SectorState) : Option SectorNo :=
  allSectors.find? (fun n => x.sectors[n].state == st)

/-- The best sector of those listed that qualify; of two equally good the one listed first. -/
def bestSector (qualifies : SectorNo → Bool) (better : SectorNo → SectorNo → Bool) : List SectorNo → Option SectorNo
  | [] => none
  | n :: l =>
    match bestSector qualifies better l with
    | none => if qualifies n then some n else none
    | some m => if qualifies n && !better m n then some n else some m

/-- The BLANK sector that an opening chooses (R60): the lowest erase count, then the lowest number. -/
def Space.chooseBlank (x : Space) : Option SectorNo :=
  bestSector (fun n => x.sectors[n].state == .blank) (fun m n => decide (x.sectors[m].eraseCount < x.sectors[n].eraseCount))
    allSectors

/-- The highest erase count among sectors not RETIRED, 0 if there is none (R77). -/
def Space.maxErase (x : Space) : Nat :=
  x.sectors.toList.foldl (fun a e => if e.state = .retired then a else max a e.eraseCount) 0

/-- The lowest erase count among the entries that qualify, if any does. -/
def lowestErase (p : SectorEntry → Bool) : List SectorEntry → Option Nat
  | [] => none
  | e :: l =>
    match lowestErase p l with
    | none => if p e then some e.eraseCount else none
    | some a => if p e then some (min e.eraseCount a) else some a

/-- The lowest erase count among sectors not RETIRED, 0 if there is none (R77). -/
def Space.minErase (x : Space) : Nat := (lowestErase (fun e => e.state != .retired) x.sectors.toList).getD 0

/-- The sum of live bytes over all sectors in use (R77). -/
def Space.liveTotal (x : Space) : Nat := x.sectors.toList.foldl (fun a e => if e.inUse then a + e.liveBytes else a) 0

/-- The sum of stale bytes over all sectors in use (R77). -/
def Space.staleTotal (x : Space) : Nat := x.sectors.toList.foldl (fun a e => if e.inUse then a + e.staleBytes else a) 0

/-- The wear spread exceeds its limit (R158). -/
def Space.spreadExceeds (x : Space) (wearsp : Nat) : Bool :=
  match lowestErase (fun e => e.state == .full) x.sectors.toList with
  | none => false
  | some low => decide (wearsp * Config.wearUnit < x.maxErase - low)

/-! ### Changing the table -/

/-- The change of an entry clears the no-victim latch (R161): the sector enters FULL or ERASE_PENDING, or is FULL and gains
stale bytes or the suspect flag. DESIGN CHOICE (log entry 34): only a flag that goes from clear to set counts as 'the suspect
flag of a FULL sector is set'; a further program fault (R66) in a FULL sector already suspect leaves the latch as it is. -/
def clearsLatch (old new : SectorEntry) : Bool :=
  (old.state != new.state && (new.state == .full || new.state == .erasePending)) ||
    (new.state == .full && ((new.suspect && !old.suspect) || decide (old.staleBytes < new.staleBytes)))

/-- A sector table entry set, with no further effect: mount builds the table so (R72, R175). -/
def State.putSector (s : State) (n : SectorNo) (e : SectorEntry) : State :=
  { s with space := { s.space with sectors := s.space.sectors.set n e } }

/-- What follows a change of the BLANK count from `before` (R72): SPACE_LOW on a fall from above LOWMK to at or below it, and the
signal of the change. -/
def State.blankMoved (s : State) (before : Nat) : State :=
  let after := s.space.blankCount
  let t := if s.win.lowmk < before ∧ after ≤ s.win.lowmk then s.raise .spaceLow else s
  if after = before then t else t.signal .blankChanged

/-- A sector table entry set outside mount, with what follows from it: the no-victim latch (R161), the exclusion list item of a
sector that leaves FULL (R159), and the BLANK count (R72). -/
def State.setSector (s : State) (n : SectorNo) (e : SectorEntry) : State :=
  let old := s.sector n
  let t := s.putSector n e
  let r := { t.rcl with
    noVictim := t.rcl.noVictim && !clearsLatch old e,
    excluded := if old.state = .full ∧ e.state ≠ .full then t.rcl.excluded.filter (fun x => x.sector != n) else t.rcl.excluded }
  { t with rcl := r }.blankMoved s.space.blankCount

/-- The entry on entering BLANK, ERASING, ERASE_PENDING or RETIRED (R56). -/
def SectorEntry.leaveUse (e : SectorEntry) (st : SectorState) : SectorEntry :=
  { e with state := st, seq := none, append := 64, liveCount := 0, liveBytes := 0, staleBytes := 0 }

/-- The entry of a sector closed (R65). -/
def SectorEntry.close (e : SectorEntry) : SectorEntry :=
  { e with state := .full, staleBytes := e.staleBytes + e.free, append := Config.sectorSize }

/-- The entry with a record of footprint `fp` placed (R63). -/
def SectorEntry.place (e : SectorEntry) (fp : Nat) : SectorEntry :=
  { e with append := e.append + fp, staleBytes := e.staleBytes + fp }

/-- The entry with the place at `o` given back, where it is still the last one of an open sector (R63). -/
def SectorEntry.giveBack (e : SectorEntry) (o fp : Nat) : SectorEntry :=
  if e.isOpen && e.append == o + fp then { e with append := o, staleBytes := e.staleBytes - fp } else e

/-- The entry with a record of footprint `fp` counted live (R64). -/
def SectorEntry.makeLive (e : SectorEntry) (fp : Nat) : SectorEntry :=
  { e with staleBytes := e.staleBytes - fp, liveBytes := e.liveBytes + fp, liveCount := e.liveCount + 1 }

/-- The entry with a live record of footprint `fp` retired (R64). -/
def SectorEntry.makeStale (e : SectorEntry) (fp : Nat) : SectorEntry :=
  { e with liveBytes := e.liveBytes - fp, staleBytes := e.staleBytes + fp, liveCount := e.liveCount - 1 }

/-- The entry of a sector in which a program run faulted (R66): suspect, and closed if it was open. -/
def SectorEntry.faulted (e : SectorEntry) : SectorEntry :=
  let e := { e with suspect := true }
  if e.isOpen then e.close else e

/-- A sector closed (R65). -/
def State.closeSector (s : State) (n : SectorNo) : State := s.setSector n (s.sector n).close

/-- A record placed (R63). -/
def State.placeRecord (s : State) (n : SectorNo) (fp : Nat) : State := s.setSector n ((s.sector n).place fp)

/-- A place given back (R63). -/
def State.givePlaceBack (s : State) (p : Place) (fp : Nat) : State :=
  s.setSector p.sector ((s.sector p.sector).giveBack p.offset fp)

/-- A commit run answered DONE (R64). -/
def State.recordLive (s : State) (n : SectorNo) (fp : Nat) : State := s.setSector n ((s.sector n).makeLive fp)

/-- An effective retire of a record counted live (R64). -/
def State.recordRetired (s : State) (n : SectorNo) (fp : Nat) : State := s.setSector n ((s.sector n).makeStale fp)

/-- A program run answered FAULT (R66). -/
def State.sectorFaulted (s : State) (n : SectorNo) : State := s.setSector n (s.sector n).faulted

/-- A sector moved out of use (R56). -/
def State.sectorOut (s : State) (n : SectorNo) (st : SectorState) : State := s.setSector n ((s.sector n).leaveUse st)

/-- A sector retired in the table (R70), and the READ_ONLY declaration that follows where fewer than 6 stay usable (R71). -/
def State.retireSector (s : State) (n : SectorNo) : State :=
  let t := s.sectorOut n .retired
  if t.space.usableCount < Config.usableThreshold then t.declareReadOnly else t

/-- A sector whose identity granule verified (R68): BLANK, with the erase count that the granule carries, known. -/
def State.sectorHeaded (s : State) (n : SectorNo) : State :=
  let e := (s.sector n).leaveUse .blank
  s.setSector n { e with eraseCount := e.eraseCount + 1, known := true }

/-- An erase answered DONE clears the suspect flag (R68). -/
def State.sectorErased (s : State) (n : SectorNo) : State := s.setSector n { s.sector n with suspect := false }

/-- An identity fault (R68): the erase count of the table rises by 1, known as it was, and the sector is retired. -/
def State.identityFaulted (s : State) (n : SectorNo) : State :=
  let e := s.sector n
  (s.setSector n { e with eraseCount := e.eraseCount + 1 }).retireSector n

/-- An opening takes a sequence number from the sector sequence counter (R60, R74). -/
def State.takeSeq (s : State) : State := { s with space := { s.space with seqCtr := s.space.seqCtr + 1 } }

/-- An opening's open granule verified (R60): the sector is open for the role, with its sequence number. -/
def State.sectorOpened (s : State) (n : SectorNo) (st : SectorState) (seq : Nat) : State :=
  s.setSector n { s.sector n with state := st, seq := some seq, append := 64 }

/-- An opening's open granule faulted (R60): ERASE_PENDING and suspect. -/
def State.openingFaulted (s : State) (n : SectorNo) : State :=
  s.setSector n { (s.sector n).leaveUse .erasePending with suspect := true }

/-- The request engine has the open granule run of a HOST_OPEN sector outstanding (section 4.4). -/
def State.hostOpening (s : State) : Bool :=
  match s.eng.req with
  | some r => match r.phase with
    | .opening _ _ => true
    | _ => false
  | none => false

/-- The reclaim engine has the open granule run of a MOVE_OPEN sector outstanding (section 4.4). -/
def State.moveOpening (s : State) : Bool :=
  match s.rcl.act with
  | .opening _ _ => true
  | .stopOpening _ _ => true
  | _ => false

/-- Every sector not RETIRED becomes ERASE_PENDING (R75). -/
def Space.mark (x : Space) : Space :=
  { x with sectors := x.sectors.map (fun e => if e.state = .retired then e else e.leaveUse .erasePending) }

end Sys2Proof.Machine
end

