-- ==== Sys2Proof/Machine/Slots.lean ====
section
/-! DEFINITION. The request slots, the queue and the window bytes (chapters 6 and 12): the ending step, the taking of the head of
the queue, and what a read of each window byte returns. -/

namespace Sys2Proof.Machine

/-! ### Slots -/

/-- A slot. -/
def State.slot (s : State) (n : SlotNo) : Slot := s.win.slots[n]

/-- A slot set. -/
def State.setSlot (s : State) (n : SlotNo) (x : Slot) : State :=
  { s with win := { s.win with slots := s.win.slots.set n x } }

/-- The selected slot (R95). -/
def State.selected (s : State) : Slot := s.slot s.win.sel

/-- The slot state that the host meets: a hidden slot reads FREE (R112). -/
def Slot.shown (x : Slot) : SlotState := if x.hidden then .free else x.state

/-- The slot's buffer and pointer are the host's to use: FREE, OPEN or DONE, and not hidden (R94, R106, R112). -/
def Slot.bufferOpen (x : Slot) : Bool :=
  !x.hidden && (x.state == .free || x.state == .opened || x.state == .done)

/-- A buffer byte; a position that is not listed holds 0x00 (R93). -/
def Slot.bufferByte (x : Slot) (i : Nat) : Byte := cellGet 0 x.buffer i

/-- Bytes written into the buffer from position 0 (R107), of which it takes as many as it has positions, 256 (R93). -/
def Slot.fillBuffer (x : Slot) (bs : List Byte) : Slot := { x with buffer := cellWrite 0 x.buffer 0 (bs.take 256) }

/-- The first `n` buffer bytes (R107). -/
def Slot.bufferHead (x : Slot) (n : Nat) : List Byte := cellRead 0 x.buffer 0 n

/-- CLAIM's effect on a FREE slot (R97): parameters, results and pointer 0, buffer content kept. -/
def Slot.claimed (x : Slot) : Slot :=
  { x with state := .opened, params := Params.zero, code := .ok, fields := ResultFields.zero, flags := ResultFlags.none, ptr := 0 }

/-- The ending step on a slot (R105). -/
def Slot.finish (x : Slot) (code : ResultCode) (f : ResultFields) (flags : ResultFlags) : Slot :=
  { x with state := .done, code := code, fields := f, flags := flags, ptr := 0 }

/-- A slot ended by the window unit or by a halt with its result fields at the zeros of CLAIM and no flags (R98, R101, R194). -/
def State.endSlot (s : State) (n : SlotNo) (code : ResultCode) : State :=
  (s.setSlot n ((s.slot n).finish code ResultFields.zero ResultFlags.none)).raise (.slotDone n)

/-! ### The ACTIVE request -/

/-- The ACTIVE request changed. -/
def State.setReq (s : State) (r : Request) : State := { s with eng := { s.eng with req := some r } }

/-- The request engine has no request ACTIVE any more. -/
def State.clearReq (s : State) : State := { s with eng := { s.eng with req := none } }

/-- The change hold released (R84): a reclaim engine waiting on HELD is signalled. -/
def State.releaseHold (s : State) : State :=
  match s.idx.hold with
  | none => s
  | some _ => { s with idx := { s.idx with hold := none } }.signal .holdReleased

/-- The waiter dropped (R86). -/
def State.dropWaiter (s : State) : State := { s with idx := { s.idx with waiter := none } }

/-- The ending step of the ACTIVE request `r` (R105): results and flags into its slot, the pointer 0, the slot DONE, SLOTDONEn
raised; a hidden slot becomes FREE with no result instead (R112). The hold is released (R84), and the engine goes on to the head
of the queue (R16). -/
def State.endRequest (s : State) (r : Request) (code : ResultCode) (f : ResultFields) : State :=
  let x := s.slot r.slot
  let t :=
    if x.hidden then s.setSlot r.slot { x with state := .free, hidden := false, ptr := 0 }
    else (s.setSlot r.slot (x.finish code f r.flags)).raise (.slotDone r.slot)
  t.clearReq.dropWaiter.releaseHold.signal .take

/-- The request ends with its code and flags alone (R17). -/
def State.endPlain (s : State) (r : Request) (code : ResultCode) : State := s.endRequest r code ResultFields.zero

/-- The four result fields of an entry's record (R1, R122). -/
def Entry.fields (e : Entry) : ResultFields := { length := e.length, key := e.key, cls := e.cls, version := e.version }

/-! ### The queue (R104) -/

/-- The store states in which the engine takes slots (R104). -/
def StoreState.takesSlots : StoreState → Bool
  | .unformatted => true
  | .ready => true
  | .readOnly => true
  | _ => false

/-- The request of a slot at its taking (R104, R114). -/
def freshRequest (n : SlotNo) (p : Params) (st : StoreState) : Request :=
  { slot := n, params := p, admitted := st, phase := .taken, flags := ResultFlags.none, aborting := false, entry := none,
    job := WriteJob.empty }

/-- The engine, if IDLE in a store state that takes slots, takes the head of the queue: the slot leaves the queue, becomes
ACTIVE and its parameters are read (R104). The row of its request code then carries out its CHECK (log entry 3). -/
def State.takeHead (s : State) : State :=
  match s.eng.req, s.win.queue with
  | none, n :: rest =>
    if s.eng.store.takesSlots then
      let x := s.slot n
      let t := s.setSlot n { x with state := .active }
      { t with win := { t.win with queue := rest } }.setReq (freshRequest n x.params s.eng.store)
    else s
  | _, _ => s

/-- The request engine state that STATE shows (R16). -/
def State.engineState (s : State) : EngineState :=
  match s.eng.req with
  | none => .idle
  | some r =>
    match r.phase with
    | .waitSpace => .waitSpace
    | .waitMove => .waitMove
    | _ => .running

/-! ### The window map (R198 to R205) -/

/-- The place of a slot in the queue, from 0. -/
def queueIndex (q : List SlotNo) (n : SlotNo) : Nat := q.idxOf n

/-- SLOTST bits 0 to 2 (R203). -/
def State.slotCode (s : State) : Nat :=
  match s.selected.shown with
  | .free => 0
  | .opened => 1
  | .active => 2
  | .done => 3
  | .queued => 4 + queueIndex s.win.queue s.win.sel

/-- The DONE bit of a slot in SLOTST (R203). -/
def Slot.doneBit (x : Slot) : Nat := if x.shown = .done then 1 else 0

/-- SLOTST (R203). -/
def State.slotst (s : State) : Byte :=
  BitVec.ofNat 8 (s.slotCode + 16 * (s.slot 0).doneBit + 32 * (s.slot 1).doneBit + 64 * (s.slot 2).doneBit +
    128 * (s.slot 3).doneBit)

/-- The code of STATE bits 4 and 5 (R200). -/
def EngineState.code : EngineState → Nat
  | .idle => 0
  | .running => 1
  | .waitSpace => 2
  | .waitMove => 3

/-- STATE (R200). -/
def State.stateByte (s : State) : Byte := BitVec.ofNat 8 (s.eng.store.code + 16 * s.engineState.code)

/-- The reclaim phase that RECLAIM shows (R154, R200): SUSPENDED in place of ERASE while the cycle sector's plane is suspended. -/
def State.reclaimCode (s : State) : Nat :=
  match s.rcl.phase with
  | .idle => 0
  | .select => 1
  | .evacuate => 2
  | .erase =>
    match s.rcl.cycle with
    | some c => if (s.plane (planeOf c.1)).suspended then 4 else 3
    | none => 3
  | .header => 5

/-- The version that VER0 to VER3 show (R95): the result version in DONE, the expected version otherwise. -/
def Slot.shownVersion (x : Slot) : Nat := if x.shown = .done then x.fields.version else x.params.version

/-- What a read of the window byte at an offset returns while the window takes bus cycles (section 12.1, R198). A read of BDATA also moves
the pointer; that is the command BDATA_READ. -/
def State.byteShown (s : State) (offset : Fin 32) : Byte :=
  let x := s.selected
  match offset.val with
  | 0x00 => Config.idByte
  | 0x01 => match s.win.mode with
    | .auto => 0
    | .onRequest => 1
  | 0x02 => s.stateByte
  | 0x03 => BitVec.ofNat 8 s.reclaimCode
  | 0x04 => s.win.iflag
  | 0x05 => s.win.imask
  | 0x06 => s.win.fault.toByte
  | 0x07 => BitVec.ofNat 8 s.space.blankCount
  | 0x08 => BitVec.ofNat 8 s.win.lowmk
  | 0x09 => BitVec.ofNat 8 s.win.suslim
  | 0x0A => BitVec.ofNat 8 s.win.wearsp
  | 0x0B => BitVec.ofNat 8 s.win.sel.val
  | 0x0C => s.slotst
  | 0x0D => 0
  | 0x0E => x.ptr
  | 0x0F => if x.bufferOpen then x.bufferByte x.ptr.toNat else 0
  | 0x10 => x.params.rq
  | 0x11 => x.params.opt
  | 0x12 => x.params.keyL
  | 0x13 => x.params.keyH
  | 0x14 => x.params.cls
  | 0x15 => x.params.len
  | 0x16 => BitVec.ofNat 8 x.shownVersion
  | 0x17 => BitVec.ofNat 8 (x.shownVersion / 256)
  | 0x18 => BitVec.ofNat 8 (x.shownVersion / 65536)
  | 0x19 => BitVec.ofNat 8 (x.shownVersion / 16777216)
  | 0x1A => x.code.toByte
  | 0x1B => BitVec.ofNat 8 x.fields.length
  | 0x1C => BitVec.ofNat 8 x.fields.key
  | 0x1D => BitVec.ofNat 8 (x.fields.key / 256)
  | 0x1E => BitVec.ofNat 8 x.fields.cls
  | _ => x.flags.toByte

/-- What a read of the window byte at an offset returns (R198): 0x00 while RESET# is held low. -/
def State.windowByte (s : State) (offset : Fin 32) : Byte := if s.resetLow then 0 else s.byteShown offset

end Sys2Proof.Machine
end

