-- ==== Sys2Proof/Machine/Mount.lean ====
section
/-! DEFINITION. The mount logic (chapter 10): HEADERS, RECORDS, CLASSES and REPAIR, each carried on by the answers of the plane
controllers to the one claim that mount has outstanding. While mount builds the sector table, no comparison with LOWMK is made
(R72). -/

namespace Sys2Proof.Machine

/-- The mount logic changed. -/
def State.setMount (s : State) (m : Mount) : State := { s with mnt := m }

/-! ### The end of mount (R177, R186) -/

/-- Mount sets the store state (R8, R186): its phase becomes none, its lists are emptied (R174), and the request engine begins
taking slots. -/
def State.finishMount (s : State) (x : StoreState) : State :=
  ((s.setMount { s.mnt with phase := .none, candidates := [], versionWalk := [], repairs := [], wholeRecord := false }).setStore
    x).signal .take

/-- The store state that mount ends with after REPAIR (R186). -/
def State.mountedState (s : State) : StoreState :=
  if s.space.usableCount < Config.usableThreshold ∨ s.mnt.repairFailed = true ∨ s.eng.writeSeq = Config.writeSeqExhausted then
    .readOnly
  else .ready

/-! ### REPAIR (R185) -/

/-- The next repair, or the end of mount (R185, R186). -/
def State.nextRepair (s : State) : State :=
  match s.mnt.repairs with
  | [] => s.finishMount s.mountedState
  | x :: _ => s.claimProgram .mount x.place.sector (x.place.offset / 8 + 2) markGranule .notErased

/-- A repair's retire run is answered (R185): an effective one moves the footprint to stale bytes; a faulted one leaves the record
live, marks the sector suspect and is noted. -/
def State.repairAnswer (s : State) (a : Answer) : State :=
  match s.mnt.repairs, a with
  | x :: l, .done _ =>
    ((s.putSector x.place.sector ((s.sector x.place.sector).makeStale x.footprint)).setMount
      { s.mnt with repairs := l }).nextRepair
  | x :: l, .fault _ =>
    ((s.putSector x.place.sector (s.sector x.place.sector).faulted).setMount
      { s.mnt with repairs := l, repairFailed := true }).nextRepair
  | _, _ => s

/-- REPAIR begins (R185). -/
def State.beginRepair (s : State) : State := (s.setMount { s.mnt with phase := .repair }).nextRepair

/-! ### CLASSES (R184, R153) -/

/-- The class table entry that a descriptor record gives (R153), where `count` is the class's live record count. One that cannot be
taken as it stands is loaded FROZEN with quota 0. -/
def loadedClass (rec' : List Byte) (e : Entry) (count : Nat) : ClassEntry :=
  let code := (rec'.getD 24 0).toNat
  let quota := ofBytes ((rec'.drop 25).take 2)
  if !recordPasses rec' e || e.length != 3 || decide (3 ≤ code) || decide (Config.indexCapacity < quota) ||
      (quota != 0 && decide (quota < count)) then
    { policy := .frozen, quota := 0, present := true }
  else
    { policy := if code = 0 then .rewritable else if code = 1 then .writeOnce else .frozen, quota := quota, present := true }

/-- The classes from `8 - remaining` upward (R184): an absent descriptor leaves the default entry; the record of a present one is read in
one run over its whole footprint (R153; log entry 13). -/
def State.loadClasses (s : State) : Nat → State
  | 0 => s.beginRepair
  | remaining + 1 =>
    let c := 7 - remaining
    match s.idx.lookup (0xFF00 + c) with
    | none => s.loadClasses remaining
    | some e =>
      (s.setMount { s.mnt with cls := c }).claimRead .mount e.place.sector (e.place.offset / 8) (footprint e.length / 8)

/-- A class descriptor is read (R153). -/
def State.classRead (s : State) (d : List Byte) : State :=
  let c := s.mnt.cls
  match s.idx.lookup (0xFF00 + c) with
  | none => s
  | some e => { s with classes := s.classes.setIfInBounds c (loadedClass d e (s.idx.count c)) }.loadClasses (7 - c)

/-! ### RECORDS (R180 to R183) -/

/-- RECORDS has walked both lists: the write sequence counter is set (R183) and CLASSES begins (R184). -/
def State.recordsDone (s : State) : State :=
  ({ s with eng := { s.eng with writeSeq := s.mnt.verMax + 1 } }.setMount { s.mnt with phase := .classes, cls := 0 }).loadClasses 8

/-- The descriptor granule at an offset of the sector being walked is read (R52). -/
def State.walkAt (s : State) (n : SectorNo) (o : Nat) : State :=
  (s.setMount { s.mnt with scanSector := n, scanOffset := o, wholeRecord := false }).claimRead .mount n (o / 8) 1

/-- The entry of a candidate as its walk begins (R180). -/
def SectorEntry.candidate (e : SectorEntry) (seq : Nat) : SectorEntry :=
  { e with
    state := .full, seq := some seq, append := Config.sectorSize, liveCount := 0, liveBytes := 0
    staleBytes := Config.sectorSize - Config.recordArea, suspect := false }

/-- The next sector to walk (R180, R183): the candidates, each moved to FULL first, and then the version-walk list. -/
def State.nextWalk (s : State) : State :=
  match s.mnt.candidates, s.mnt.versionWalk with
  | c :: _, _ => (s.putSector c.sector ((s.sector c.sector).candidate c.seq)).walkAt c.sector Config.recordArea
  | [], n :: _ => s.walkAt n Config.recordArea
  | [], [] => s.recordsDone

/-- The walk of the sector at hand is over; `broke` counts among the findings for a candidate (R182). -/
def State.walkDone (s : State) (broke : Bool) : State :=
  match s.mnt.candidates, s.mnt.versionWalk with
  | _ :: l, _ =>
    let f := s.mnt.findings
    let f := if broke then { f with chainsBroken := f.chainsBroken + 1 } else f
    (s.setMount { s.mnt with candidates := l, findings := f }).nextWalk
  | [], _ :: l => (s.setMount { s.mnt with versionWalk := l }).nextWalk
  | [], [] => s.nextWalk

/-- A trusted descriptor's version is weighed (R183). -/
def Mount.trust (m : Mount) (v : Verdict) (version : Nat) : Mount :=
  if v = .uncommitted then m else { m with verMax := max m.verMax version }

/-- A LIVE record of a candidate is counted and offered (R180, R181); a loser joins the repair list and is counted among the
duplicates resolved (R182). -/
def State.offerRecord (s : State) (e : Entry) : State :=
  let fp := footprint e.length
  let t := s.putSector e.place.sector ((s.sector e.place.sector).makeLive fp)
  let old := s.idx.lookup e.key
  match t.idx.offer e (fun n => (t.sector n).seq.getD 0) with
  | (x, none) => { t with idx := x }
  | (x, some p) =>
    let lost := if p = e.place then fp else old.elim fp (fun o => footprint o.length)
    let item : Repair := { place := p, key := e.key, footprint := lost }
    { t with idx := x }.setMount { t.mnt with
      repairs := t.mnt.repairs ++ [item]
      findings := { t.mnt.findings with duplicates := t.mnt.findings.duplicates + 1 } }

/-- What a candidate's record of the verdict given adds (R180 to R182). -/
def State.countRecord (s : State) (v : Verdict) (e : Entry) : State :=
  let f := s.mnt.findings
  match v with
  | .live => s.offerRecord e
  | .retired => s
  | .uncommitted => s.setMount { s.mnt with findings := { f with incomplete := f.incomplete + 1 } }
  | .failingCrc => s.setMount { s.mnt with findings := { f with failingCrc := f.failingCrc + 1 } }

/-- A record that the walk reached is read whole (R52, R53): verdict, count and offer for a candidate, its version alone for a sector
of the version-walk list (R183). -/
def State.walkedRecord (s : State) (rec' : List Byte) : State :=
  let n := s.mnt.scanSector
  let o := s.mnt.scanOffset
  let d := readDescriptor (rec'.take 8)
  let v := verdict rec'
  let t := s.setMount (s.mnt.trust v d.version)
  let e : Entry :=
    { key := d.key, cls := d.cls, place := { sector := n, offset := o }, length := d.length, version := d.version, moving := false }
  let t := if s.mnt.candidates.isEmpty then t else t.countRecord v e
  let next := o + footprint d.length
  if chainPastEnd next then t.walkDone false else t.walkAt n next

/-- A descriptor granule of the walk is read (R52). -/
def State.walkedDescriptor (s : State) (g : List Byte) : State :=
  match chainStep s.mnt.scanOffset g with
  | .ended => s.walkDone false
  | .broken => s.walkDone true
  | .record fp =>
    (s.setMount { s.mnt with wholeRecord := true }).claimRead .mount s.mnt.scanSector (s.mnt.scanOffset / 8) (fp / 8)

/-! ### HEADERS (R175 to R179) -/

/-- The candidate put in its place, ascending by sequence number and then by sector number (R180). -/
def candidateInsert (c : Candidate) : List Candidate → List Candidate
  | [] => [c]
  | x :: l =>
    if c.seq < x.seq ∨ (c.seq = x.seq ∧ c.sector < x.sector) then c :: x :: l else x :: candidateInsert c l

/-- The candidates in the order that RECORDS takes (R180). -/
def candidateSort (l : List Candidate) : List Candidate := l.foldr candidateInsert []

/-- The known erase counts of the sectors not RETIRED. -/
def Space.knownCounts (x : Space) : List Nat :=
  (x.sectors.toList.filter (fun e => e.known && e.state != .retired)).map (fun e => e.eraseCount)

/-- The estimate of R178: the mean of the known counts, rounded down; 0 where there is none. -/
def Space.estimate (x : Space) : Nat := x.knownCounts.sum / x.knownCounts.length

/-- Each estimated entry receives the estimate (R178). -/
def Space.estimated (x : Space) : Space :=
  { x with sectors := x.sectors.map (fun e => if e.known then e else { e with eraseCount := x.estimate }) }

/-- How many sectors not RETIRED have an estimated erase count (R182). -/
def Space.estimatedCount (x : Space) : Nat := x.sectors.toList.countP (fun e => !e.known && e.state != .retired)

/-- The sector sequence counter after HEADERS (R179). -/
def seqAfter : Option Nat → Nat
  | none => 0
  | some n => n + 1

/-- Every BLANK sector of a generation lower than `gen` becomes ERASE_PENDING (R177). -/
def State.lowerBlanks (s : State) (gen : Nat) : State :=
  s.mnt.noted.foldl (fun t x =>
    if x.2 < gen ∧ (t.sector x.1).state = .blank then t.putSector x.1 ((t.sector x.1).leaveUse .erasePending) else t) s

/-- HEADERS has read all 64 sectors (R177 to R179): the generation is chosen, erase counts are estimated, the sector sequence counter
is set, and RECORDS begins; or mount ends UNFORMATTED. -/
def State.headersDone (s : State) : State :=
  let gen := s.mnt.noted.foldl (fun a x => max a x.2) 0
  let t := s.lowerBlanks gen
  let space := { t.space.estimated with gen := gen, seqCtr := seqAfter s.mnt.seqMax }
  let t := { t with space := space }.setMount { t.mnt with
    phase := .records
    candidates := candidateSort (s.mnt.candidates.filter (fun c => c.gen == gen))
    versionWalk := (s.mnt.candidates.filter (fun (c : Candidate) => c.gen != gen)).map Candidate.sector
    findings := { s.mnt.findings with estimated := space.estimatedCount } }
  if s.mnt.noted.isEmpty then { t with eng := { t.eng with writeSeq := 1 } }.finishMount .unformatted else t.nextWalk

/-- The header of a sector is claimed (R175). -/
def State.headerAt (s : State) (n : SectorNo) : State :=
  (s.setMount { s.mnt with scanSector := n, scanOffset := 0, wholeRecord := false }).claimRead .mount n 0 4

/-- HEADERS goes on to the sector after the one scanned (R175), or ends. -/
def State.nextHeader (s : State) : State :=
  if h : s.mnt.scanSector.val + 1 < 64 then s.headerAt ⟨s.mnt.scanSector.val + 1, h⟩ else s.headersDone

/-- A table entry as HEADERS sets it (R175). -/
def headerEntry (st : SectorState) (id : IdentityRead) : SectorEntry :=
  match id with
  | .valid _ count => { SectorEntry.reset with state := st, eraseCount := count, known := true }
  | _ => { SectorEntry.reset with state := st }

/-- The sequence number of a valid open granule is noted (R175, R179). -/
def Mount.noteSeq (m : Mount) : OpenRead → Mount
  | .valid seq _ => { m with seqMax := some (m.seqMax.elim seq (max seq)) }
  | _ => m

/-- The generation of a valid identity is noted, for a sector that is not RETIRED (R175, R177). -/
def Mount.noteGen (m : Mount) (n : SectorNo) : IdentityRead → Mount
  | .valid gen _ => { m with noted := m.noted ++ [(n, gen)] }
  | _ => m

/-- The header of the sector scanned is read (R175): the entry is set by the first row that applies. -/
def State.headerRead (s : State) (g : List Byte) : State :=
  let n := s.mnt.scanSector
  let id := readIdentity (g.take 8)
  let op := readOpen ((g.drop 8).take 8)
  let m := s.mnt.noteSeq op
  if !allErased ((g.drop 16).take 8) then ((s.putSector n (headerEntry .retired id)).setMount m).nextHeader
  else
    let m := m.noteGen n id
    let t := s.putSector n (headerEntry .erasePending id)
    if !allErased ((g.drop 24).take 8) then (t.setMount m).nextHeader
    else
      match id, op with
      | .valid gen _, .valid seq _ =>
        (t.setMount { m with candidates := m.candidates ++ [{ sector := n, gen := gen, seq := seq }] }).nextHeader
      | .valid _ _, .erased => (t.setMount { m with scanOffset := Config.recordArea, wholeRecord := true }).claimRead .mount n 8 504
      | _, _ => (t.setMount m).nextHeader

/-- The record area of a sector with an erased open granule is read (R176). -/
def State.recordAreaRead (s : State) (d : List Byte) : State :=
  let n := s.mnt.scanSector
  if allErased d then (s.putSector n { s.sector n with state := .blank }).nextHeader else s.nextHeader

/-! ### Answers to the mount logic -/

/-- A plane controller's answer reaches the mount logic. Once the store has left MOUNTING for HALTED it acts on none (R188). -/
def State.mountAnswer (s : State) (a : Answer) : State :=
  if s.eng.store ≠ .mounting then s
  else
    match s.mnt.phase, s.mnt.wholeRecord, a with
    | .headers, false, .bytes d => s.headerRead d
    | .headers, true, .bytes d => s.recordAreaRead d
    | .records, false, .bytes d => s.walkedDescriptor d
    | .records, true, .bytes d => s.walkedRecord d
    | .classes, _, .bytes d => s.classRead d
    | .repair, _, _ => s.repairAnswer a
    | _, _, _ => s

end Sys2Proof.Machine
end

