-- ==== Sys2Proof/Machine/Reclaim.lean ====
section
/-! DEFINITION. The reclaim engine (chapter 9): start conditions, the choice of a sector, the walk of the victim, the relocation
step, ERASE and HEADER, the stopping points, and the halt. A block that another must hear of is told through the agenda (log
entry 4). -/

namespace Sys2Proof.Machine

/-! ### Start conditions and the end of a cycle (R155 to R157) -/

/-- A write is in WAIT_SPACE (R124). -/
def State.writeWaits (s : State) : Bool := s.engineState == .waitSpace

/-- A RECLAIM request asks for a cycle (R136). -/
def State.cycleAsked (s : State) : Bool :=
  match s.eng.req with
  | some r => r.phase == .cycle
  | none => false

/-- Some start condition holds under the reclaim mode (R156). -/
def State.startCondition (s : State) : Bool :=
  s.space.countState .erasePending != 0 || s.writeWaits || s.cycleAsked ||
    (s.win.mode == .auto && !s.rcl.noVictim &&
      (decide (s.space.blankCount ≤ s.win.lowmk) || s.space.spreadExceeds s.win.wearsp))

/-- The reclaim engine may start a cycle (R156): it is IDLE, the store READY and no FORMAT stop request held. -/
def State.mayStart (s : State) : Bool := s.rcl.phase == .idle && s.eng.store == .ready && s.rcl.stop != .format

/-- The test of the start conditions (R156): where one holds, a cycle starts by entering SELECT. -/
def State.startTest (s : State) : State :=
  if s.mayStart && s.startCondition then { s with rcl := { s.rcl with phase := .select, act := .select } } else s

/-- The reclaim engine with no cycle in hand; the stop request, the latch and the exclusion list keep their values. -/
def Reclaim.idled (r : Reclaim) : Reclaim :=
  { r with phase := .idle, act := .idle, cycle := none, pos := 64, step := none, buffer := [] }

/-- A cycle ends (R157): IDLE, RECLAIM_DONE raised, the end reported. A READ_ONLY stop request is dropped (R171). -/
def State.endCycle (s : State) (how : CycleEnd) : State :=
  let stop := if s.rcl.stop = .readOnly then StopRequest.none else s.rcl.stop
  ({ s with rcl := { s.rcl.idled with stop := stop } }.raise .reclaimDone).signal (.cycleEnded how)

/-- The end that a cycle comes to when it would end as `own`: under a stop request it ends as stopped (R157, R171). -/
def State.stopOutcome (s : State) (own : CycleEnd) : CycleEnd := if s.rcl.stop = .none then own else .stopped

/-- The stop in force is one under which no header is programmed (R171). -/
def State.readOnlyStop (s : State) : Bool :=
  s.rcl.stop == .readOnly || (s.rcl.stop == .format && s.eng.store == .readOnly)

/-- The reclaim engine turns to another piece of work within its cycle. -/
def State.setAct (s : State) (a : ReclaimAct) : State := { s with rcl := { s.rcl with act := a } }

/-- A sector of the table put back to FULL, with its totals as they stand (R67). -/
def State.backToFull (s : State) (n : SectorNo) : State := s.setSector n { s.sector n with state := .full }

/-- The cycle stops with its victim not fully evacuated (R67, R171). -/
def State.stopFull (s : State) (n : SectorNo) : State := (s.backToFull n).endCycle .stopped

/-- The cycle stops with its victim evacuated, or its sector erased and not headed (R67, R68, R171). -/
def State.stopPending (s : State) (n : SectorNo) : State := (s.sectorOut n .erasePending).endCycle .stopped

/-! ### ERASE, HEADER and retirement (R168 to R170, R70) -/

/-- The retire run of a sector that the cycle retires: its retire granule is read first (R43, R70). -/
def State.retireRun (s : State) (n : SectorNo) (outcome : CycleEnd) : State :=
  (s.setAct (.readRetire outcome)).claimRead .reclaim n sectorRetireNo 1

/-- The end that a retirement gives its cycle, as it stands before the sector is retired: a READ_ONLY stop in force by then counts, and
one that the retirement itself brings about does not (R157). -/
def State.retireOutcome (s : State) (own : CycleEnd) : CycleEnd := if s.rcl.stop = .readOnly then .stopped else own

/-- A cycle whose sector has been retired ends (R157): as stopped under a FORMAT stop that is still held (R171). -/
def State.endRetired (s : State) (outcome : CycleEnd) : State :=
  s.endCycle (if s.rcl.stop = .format then .stopped else outcome)

/-- The cycle's sector is retired in the table and on flash (R70). -/
def State.beginRetire (s : State) (n : SectorNo) (own : CycleEnd) : State :=
  (s.retireSector n).retireRun n (s.retireOutcome own)

/-- ERASE begins with the reading of the erase mark granule (R169, R44). -/
def State.beginErase (s : State) (n : SectorNo) : State :=
  { s with rcl := { s.rcl with phase := .erase, act := .readMark } }.claimRead .reclaim n eraseMarkNo 1

/-- A sector that is to be erased: ERASING below ERASE_LIMIT, RETIRED at or above it (R67, R69). -/
def State.takeForErase (s : State) (n : SectorNo) : State :=
  if Config.eraseLimit ≤ (s.sector n).eraseCount then s.beginRetire n .completed else (s.sectorOut n .erasing).beginErase n

/-- The erase of the cycle sector claimed (R169). -/
def State.reclaimErase (s : State) (n : SectorNo) : State := (s.setAct .erasing).claimErase .reclaim n

/-- The erase answered DONE (R169, R170): HEADER, or under a READ_ONLY stop no header (R171). -/
def State.reclaimErased (s : State) (n : SectorNo) : State :=
  let t := s.sectorErased n
  if t.readOnlyStop then t.stopPending n
  else
    { t with rcl := { t.rcl with phase := .header, act := .identity } }.claimProgram .reclaim n identityNo
      (identityGranule t.space.gen ((t.sector n).eraseCount + 1)) .exact

/-! ### The walk of the victim (R162, R168) -/

/-- Evacuation is complete (R168); a stop request taken by then leaves the victim ERASE_PENDING (R171). -/
def State.evacuated (s : State) (n : SectorNo) : State :=
  if s.rcl.stop = .none then s.takeForErase n else s.stopPending n

/-- The walk goes on at the evacuation position (R162, R52); between steps a stop request is met (R171). DESIGN CHOICE (log entry 38): a walk
whose next descriptor is not yet read has not reached its end, so that the stop leaves the victim FULL even where that descriptor would end
the chain. -/
def State.nextRecord (s : State) (n : SectorNo) : State :=
  if chainPastEnd s.rcl.pos then s.evacuated n
  else if s.rcl.stop = .none then (s.setAct .readDesc).claimRead .reclaim n (s.rcl.pos / 8) 1
  else s.stopFull n

/-- The walk passes over a record of footprint `fp` (R162). -/
def State.advance (s : State) (n : SectorNo) (fp : Nat) : State :=
  { s with rcl := { s.rcl with pos := s.rcl.pos + fp, step := none, buffer := [] } }.nextRecord n

/-- The mark-moving claim for the record whose descriptor granule is `g` (R162, R85). On HELD the granule is kept for the repeated
claim; on MARKED the relocation step begins with the read of the whole record (R163). -/
def State.markStep (s : State) (n : SectorNo) (g : List Byte) : State :=
  let d := readDescriptor g
  let fp := footprint d.length
  let p : Place := { sector := n, offset := s.rcl.pos }
  match s.idx.markMoving d.key p with
  | (_, .held) => { s with rcl := { s.rcl with act := .heldWait, buffer := g } }
  | (_, .notCurrent) => s.advance n fp
  | (x, .marked e) =>
    let st : ReclaimStep := { key := d.key, original := p, copy := none, footprint := fp, entry := e }
    { s with idx := x, rcl := { s.rcl with act := .readRecord, step := some st, buffer := [] } }.claimRead .reclaim n
      (p.offset / 8) (fp / 8)

/-- The descriptor granule at the evacuation position is read (R162). -/
def State.descriptorRead (s : State) (n : SectorNo) (g : List Byte) : State :=
  match chainStep s.rcl.pos g with
  | .record _ => s.markStep n g
  | _ => s.evacuated n

/-! ### The relocation step (R163 to R167) -/

/-- Clear-moving for the step's key (R86): a request that waits on it is signalled. -/
def State.clearMove (s : State) (key : Nat) : State :=
  let t := { s with idx := s.idx.clearMoving key }
  if t.idx.waiter = some key then t.signal .unmarked else t

/-- The step ends with the original current and the cycle with it, the victim FULL (R165, R171). -/
def State.dropStep (s : State) (n : SectorNo) (st : ReclaimStep) (how : CycleEnd) : State :=
  ((s.clearMove st.key).backToFull n).endCycle how

/-- The record joins the exclusion list (R166, R167). -/
def State.exclude (s : State) (n : SectorNo) (st : ReclaimStep) : State :=
  { s with rcl := { s.rcl with excluded :=
    s.rcl.excluded ++ [{ sector := n, key := st.key, offset := st.original.offset }] } }

/-- The cycle is abandoned because of the step's record (R166, R167). -/
def State.abandon (s : State) (n : SectorNo) (st : ReclaimStep) (declared : Bool) : State :=
  (s.exclude n st).dropStep n st (s.stopOutcome (.abandoned declared))

/-- The step is complete (R164): clear-moving, and the walk goes on. -/
def State.stepDone (s : State) (n : SectorNo) (st : ReclaimStep) : State := (s.clearMove st.key).advance n st.footprint

/-- A record is placed in MOVE_OPEN and its descriptor run claimed (R62, R163). -/
def State.placeCopy (s : State) (m : SectorNo) (st : ReclaimStep) : State :=
  let p : Place := { sector := m, offset := (s.sector m).append }
  let t := s.placeRecord m st.footprint
  { t with rcl := { t.rcl with act := .copyDescriptor, step := some { st with copy := some p } } }.claimProgram .reclaim m
    (p.offset / 8) (t.rcl.buffer.take 8) .exact

/-- Step 3 of a move room claim (R62): an opening where a BLANK sector exists, behind an opening of a HOST_OPEN sector in hand
(section 4.4). READ_ONLY ends the step (R163, R171); NO_ROOM abandons the cycle and declares READ_ONLY (R165). DESIGN CHOICE (log entry 35):
the declaration comes before the clear-moving, so that a request in WAIT_MOVE on the step's key ends READ_ONLY (R12). -/
def State.openMove (s : State) (n : SectorNo) (st : ReclaimStep) : State :=
  let s := { s with rcl := { s.rcl with step := some { st with copy := none } } }
  if s.eng.store ≠ .ready then s.dropStep n st .stopped
  else if s.hostOpening then s.setAct .roomWait
  else
    match (if Config.sectorSeqExhausted ≤ s.space.seqCtr then none else s.space.chooseBlank) with
    | some m =>
      let q := s.space.seqCtr
      (s.takeSeq.setAct (.opening m q)).claimProgram .reclaim m openNo (openGranule q roleMove) .exact
    | none => s.declareReadOnly.dropStep n st (s.stopOutcome (.abandoned true))

/-- The move room claim (R62). -/
def State.moveRoom (s : State) (n : SectorNo) (st : ReclaimStep) : State :=
  match s.space.findState .moveOpen with
  | some m => if st.footprint ≤ (s.sector m).free then s.placeCopy m st else (s.closeSector m).openMove n st
  | none => s.openMove n st

/-- The whole record is read (R163): copied where it passes the check of R55, and otherwise left (R167). -/
def State.recordRead (s : State) (n : SectorNo) (st : ReclaimStep) (rec' : List Byte) : State :=
  if recordPasses rec' st.entry then { s with rcl := { s.rcl with buffer := rec' } }.moveRoom n st
  else s.abandon n st false

/-- The open granule of a MOVE_OPEN sector is answered (R60). STOPPED says that the one granule of the run verified (R26, log entry 31). -/
def State.moveOpened (s : State) (m : SectorNo) (q : Nat) (a : Answer) : State :=
  match a with
  | .done _ => (s.sectorOpened m .moveOpen q).signal .openingEnded
  | .stopped _ _ => (s.sectorOpened m .moveOpen q).signal .openingEnded
  | .fault _ => (s.openingFaulted m).signal .openingEnded
  | _ => s

/-- The commit run of the copy claimed (R163). -/
def State.copyCommit (s : State) (p : Place) : State :=
  (s.setAct .copyCommit).claimProgram .reclaim p.sector (p.offset / 8 + 1) ((s.rcl.buffer.drop 8).take 8) .exact

/-- The payload run of the copy claimed; a record of length 0 has none (R163). -/
def State.copyPayload (s : State) (p : Place) : State :=
  if (s.rcl.buffer.drop 24).isEmpty then s.copyCommit p
  else (s.setAct .copyPayload).claimProgram .reclaim p.sector (p.offset / 8 + 3) (s.rcl.buffer.drop 24) .exact

/-- The retire of the copy claimed: after a failed retire of the original (R166), or after a relocate answered NOT_CURRENT (R164). -/
def State.retireCopy (s : State) (p : Place) (faulted : Bool) : State :=
  (s.setAct (.retireCopy faulted)).claimProgram .reclaim p.sector (p.offset / 8 + 2) markGranule .notErased

/-- The original is retired (R164): the relocate claim, and the end of the step. -/
def State.originalRetired (s : State) (n : SectorNo) (st : ReclaimStep) (p : Place) : State :=
  let t := s.recordRetired n st.footprint
  match t.idx.relocate st.key st.original p with
  | some x => { t with idx := x }.stepDone n st
  | none => t.retireCopy p false

/-- The copy has committed (R163, R164): the original is retired next, without a run where its retire granule already reads not
fully erased (R50). -/
def State.copyCommitted (s : State) (n : SectorNo) (st : ReclaimStep) (p : Place) : State :=
  let t := s.recordLive p.sector st.footprint
  if allErased ((t.rcl.buffer.drop 16).take 8) then
    (t.setAct .retireOriginal).claimProgram .reclaim n (st.original.offset / 8 + 2) markGranule .notErased
  else t.originalRetired n st p

/-- The copy's retire is answered (R164, R166). -/
def State.copyRetired (s : State) (n : SectorNo) (st : ReclaimStep) (p : Place) (faulted : Bool) (a : Answer) : State :=
  match a, faulted with
  | .done _, true => (s.recordRetired p.sector st.footprint).abandon n st false
  | .fault _, true => (s.sectorFaulted p.sector).declareReadOnly.abandon n st true
  | .done _, false => (s.recordRetired p.sector st.footprint).stepDone n st
  | .fault _, false => (s.sectorFaulted p.sector).stepDone n st
  | _, _ => s

/-! ### Choosing the sector (R158 to R161) -/

/-- The exclusion list item still stands (R159): the key's entry points at the sector and offset held. -/
def Exclusion.stands (x : Exclusion) (idx : KeyIndex) : Bool :=
  match idx.lookup x.key with
  | some e => e.place == { sector := x.sector, offset := x.offset }
  | none => false

/-- The exclusion list items that no longer stand are removed (R159). -/
def State.pruneExcluded (s : State) : State :=
  { s with rcl := { s.rcl with excluded := s.rcl.excluded.filter (fun x => x.stands s.idx) } }

/-- The sector is FULL and not excluded (R160). -/
def State.evacuable (s : State) (n : SectorNo) : Bool :=
  (s.sector n).state == .full && !s.rcl.excluded.any (fun x => x.sector == n)

/-- Tests 2 to 4 of R160. -/
def State.chooseVictim (s : State) : Option SectorNo :=
  let suspect := allSectors.find? (fun n => s.evacuable n && (s.sector n).suspect)
  let levelled :=
    if s.space.spreadExceeds s.win.wearsp && !s.writeWaits then
      bestSector s.evacuable (fun m n => decide ((s.sector m).eraseCount < (s.sector n).eraseCount)) allSectors
    else none
  let stalest :=
    bestSector (fun n => s.evacuable n && decide (0 < (s.sector n).staleBytes))
      (fun m n => decide ((s.sector n).staleBytes < (s.sector m).staleBytes) ||
        (decide ((s.sector m).staleBytes = (s.sector n).staleBytes) &&
          decide ((s.sector m).eraseCount < (s.sector n).eraseCount))) allSectors
  suspect <|> levelled <|> stalest

/-- SELECT names a sector (R161). -/
def State.nameSector (s : State) (n : SectorNo) (k : CycleKind) : State :=
  { s with rcl := { s.rcl with noVictim := false, cycle := some (n, k) } }

/-- A FULL sector becomes the victim and its walk begins at offset 64 (R161, R67); under a stop request it is returned at once
(R171). -/
def State.takeVictim (s : State) (n : SectorNo) : State :=
  let t := s.setSector n { s.sector n with state := .victim }
  { t with rcl := { t.rcl with phase := .evacuate, pos := 64 } }.nextRecord n

/-- SELECT (R159 to R161). -/
def State.selectRow (s : State) : State :=
  let t := s.pruneExcluded
  match t.space.findState .erasePending with
  | some n => (t.nameSector n .pending).takeForErase n
  | none =>
    match t.chooseVictim with
    | some n => (t.nameSector n .evacuation).takeVictim n
    | none => { t with rcl := { t.rcl with noVictim := true } }.endCycle .noVictim

/-! ### Answers, signals and stopping points -/

/-- The read of a descriptor granule that was asked to stop is answered (R171, log entry 15): the cycle ends with the victim FULL, or
ERASE_PENDING where the granule ends the walk. Where the stop has been withdrawn by then the walk goes on. -/
def State.stoppedAtDescriptor (s : State) (n : SectorNo) (g : List Byte) : State :=
  if s.rcl.stop = .none then s.descriptorRead n g
  else
    match chainStep s.rcl.pos g with
    | .record _ => s.stopFull n
    | _ => s.stopPending n

/-- The read of a whole record that was asked to stop is answered (R171): the step ends with the original current. Where the stop has been
withdrawn by then the step goes on, with the record read or with its reading claimed anew (log entry 15). -/
def State.stoppedAtRecord (s : State) (n : SectorNo) (st : ReclaimStep) (d : List Byte) : State :=
  if s.rcl.stop ≠ .none then s.dropStep n st .stopped
  else if d.length = st.footprint then s.recordRead n st d
  else (s.setAct .readRecord).claimRead .reclaim n (st.original.offset / 8) (st.footprint / 8)

/-- An opening that was asked to stop is answered (R171): the step ends with the original current, or goes on where the stop has been
withdrawn by then (log entry 15). -/
def State.stoppedAtOpening (s : State) (n : SectorNo) (st : ReclaimStep) : State :=
  if s.rcl.stop ≠ .none then s.dropStep n st .stopped else s.moveRoom n st

/-- The answers that a cycle acts on between naming its sector and its relocation steps, and in ERASE and HEADER. -/
def State.cycleAnswer (s : State) (n : SectorNo) (a : Answer) : State :=
  match s.rcl.act, a with
  | .readDesc, .bytes g => s.descriptorRead n g
  | .readMark, .bytes g =>
    if allErased g then (s.setAct .mark).claimProgram .reclaim n eraseMarkNo markGranule .notErased else s.reclaimErase n
  | .mark, .done _ => s.reclaimErase n
  | .mark, .fault _ => s.beginRetire n .faulted
  | .erasing, .done _ => s.reclaimErased n
  | .erasing, .fault _ => s.beginRetire n .faulted
  | .identity, .done _ => (s.sectorHeaded n).endCycle (s.stopOutcome .completed)
  | .identity, .fault _ => (s.identityFaulted n).retireRun n (s.retireOutcome .faulted)
  | .readRetire o, .bytes g =>
    if allErased g then (s.setAct (.retireSector o)).claimProgram .reclaim n sectorRetireNo markGranule .notErased
    else s.endRetired o
  | .retireSector o, _ => s.endRetired o
  | .stopRead, .bytes g => s.stoppedAtDescriptor n g
  | .stopRead, .stopped g _ => s.stoppedAtDescriptor n g
  | _, _ => s

/-- The copy has faulted: the step makes its room claim anew, in its retry (R165). -/
def State.copyFaulted (s : State) (n : SectorNo) (st : ReclaimStep) (p : Place) : State :=
  (s.sectorFaulted p.sector).moveRoom n { st with retrying := true }

/-- The answers that a relocation step acts on (R163 to R166). -/
def State.stepAnswer (s : State) (n : SectorNo) (st : ReclaimStep) (a : Answer) : State :=
  match s.rcl.act, st.copy, a with
  | .readRecord, _, .bytes d => s.recordRead n st d
  | .opening m q, _, _ => (s.moveOpened m q a).moveRoom n st
  | .stopOpening m q, _, _ => (s.moveOpened m q a).stoppedAtOpening n st
  | .stopRecord, _, .bytes d => s.stoppedAtRecord n st d
  | .stopRecord, _, .stopped d _ => s.stoppedAtRecord n st d
  | .copyDescriptor, some p, .done _ => s.copyPayload p
  | .copyPayload, some p, .done _ => s.copyCommit p
  | .copyCommit, some p, .done _ => s.copyCommitted n st p
  | .copyDescriptor, some p, .fault _ => s.copyFaulted n st p
  | .copyPayload, some p, .fault _ => s.copyFaulted n st p
  | .copyCommit, some p, .fault _ => s.copyFaulted n st p
  | .retireOriginal, some p, .done _ => s.originalRetired n st p
  | .retireOriginal, some p, .fault _ => (s.sectorFaulted n).retireCopy p true
  | .retireCopy f, some p, _ => s.copyRetired n st p f a
  | _, _, _ => s

/-- A plane controller's answer reaches the reclaim engine. After the halt it has no cycle and acts on none (R172). -/
def State.reclaimAnswer (s : State) (a : Answer) : State :=
  match s.rcl.cycle, s.rcl.step with
  | none, _ => s
  | some c, none => s.cycleAnswer c.1 a
  | some c, some st => s.stepAnswer c.1 st a

/-- The change hold is released (R85): a mark-moving answered HELD is made again. -/
def State.reclaimHoldReleased (s : State) : State :=
  match s.rcl.act, s.rcl.cycle with
  | .heldWait, some c => s.markStep c.1 s.rcl.buffer
  | _, _ => s

/-- An opening has ended: a step that waits behind it makes its room claim again (section 4.4). -/
def State.reclaimRoom (s : State) : State :=
  match s.rcl.act, s.rcl.cycle, s.rcl.step with
  | .roomWait, some c, some st => s.moveRoom c.1 st
  | _, _, _ => s

/-- The step in hand is in its retry, so that the descriptor run of a copy has been granted, and the stop is not one under which a faulted copy
is not retried: the step runs to its clear-moving, R165 included (R171). -/
def State.retryRunsOn (s : State) : Bool := s.rcl.step.any (fun st => st.retrying) && !s.readOnlyStop

/-- The stopping points that are met at the arrival of a stop request (R171). A run in service is asked to stop and its answer
awaited; a step in its retry runs on under a FORMAT stop. In HEADER an identity run in service completes, and one that still waits for its
plane is withdrawn under a READ_ONLY stop, the sector ERASE_PENDING (R12, R68); under a FORMAT stop it is made. Two choices of the model: in
ERASE nothing is met at the arrival, a mark run or an erase that still waits for its plane being granted under a READ_ONLY stop too (DESIGN
CHOICE, log entry 33); and a walk whose next descriptor read still waits has not reached its end (DESIGN CHOICE, log entry 38). -/
def State.stopNow (s : State) : State :=
  if s.retryRunsOn then s
  else match s.rcl.act, s.rcl.cycle, s.rcl.step with
  | .readDesc, some c, _ =>
    if s.runInService .reclaim then (s.askStop .reclaim).setAct .stopRead else (s.withdraw .reclaim).stopFull c.1
  | .heldWait, some c, _ => s.stopFull c.1
  | .readRecord, some c, some st =>
    if s.runInService .reclaim then (s.askStop .reclaim).setAct .stopRecord
    else (s.withdraw .reclaim).dropStep c.1 st .stopped
  | .roomWait, some c, some st => s.dropStep c.1 st .stopped
  | .opening m q, some c, some st =>
    if s.runInService .reclaim then (s.askStop .reclaim).setAct (.stopOpening m q)
    else ((s.withdraw .reclaim).signal .openingEnded).dropStep c.1 st .stopped
  | .copyDescriptor, some c, some st =>
    match s.claimWaits .reclaim, st.copy with
    | true, some p => ((s.withdraw .reclaim).givePlaceBack p st.footprint).dropStep c.1 st .stopped
    | _, _ => s
  | .identity, some c, _ => if s.readOnlyStop && s.claimWaits .reclaim then (s.withdraw .reclaim).stopPending c.1 else s
  | _, _, _ => s

/-- The store has entered READ_ONLY (R12, R171): the stop request is recorded, and a FORMAT stop request stays held. -/
def State.reclaimReadOnly (s : State) : State :=
  if s.rcl.phase = .idle then s
  else
    let stop := if s.rcl.stop = .format then StopRequest.format else .readOnly
    { s with rcl := { s.rcl with stop := stop } }.stopNow

/-- The halt reaches the reclaim engine (R172): the cycle is cut off, with no place given back, no clear-moving and no
RECLAIM_DONE. -/
def State.reclaimHalt (s : State) : State := { s with rcl := s.rcl.idled }

end Sys2Proof.Machine
end

