-- ==== Sys2Proof/Machine/Request.lean ====
section
/-! DEFINITION. The request engine (chapters 1, 7 and 8): the checks and phases of each request, the waits, the abort, and the
ends that a power-fail halt gives. A block that another must hear of is told through the agenda (log entry 4). -/

namespace Sys2Proof.Machine

/-! ### Common parts -/

/-- Admission by the store state at the taking (R15), for the requests other than FORMAT and REPORT. `change`: the request is one
that READ_ONLY refuses. -/
def Request.refusedBy (r : Request) (change : Bool) : Option ResultCode :=
  match r.admitted with
  | .unformatted => some .notReady
  | .readOnly => if change then some .readOnly else none
  | _ => none

/-- A class table entry; class 15 has none and is answered with the default (R143). -/
def State.classEntry (s : State) (cls : Nat) : ClassEntry :=
  if h : cls < 8 then s.classes[cls] else ClassEntry.default

/-- The granule of a record at a place: 0 the descriptor, 1 the commit, 2 the retire, 3 the first of the payload (R45). -/
def Place.granule (p : Place) (k : Nat) : Nat := p.offset / 8 + k

/-- The request waits for the moving mark of the key (R86): WAITED is set and the index records the waiter. -/
def Request.waitMove (r : Request) (key : Nat) (s : State) : State :=
  let t := { s with idx := { s.idx with waiter := some key } }
  t.setReq { r with phase := .waitMove, flags := { r.flags with waited := true }, job := { r.job with place := none } }

/-! ### READ (R116 to R120) -/

/-- READ's LOOKUP (R116) and the claim of TRANSFER (R117). -/
def Request.readLookup (r : Request) (s : State) : State :=
  match s.idx.lookup r.params.key with
  | none => s.endPlain r .notFound
  | some e =>
    (s.setReq { r with phase := .transfer, entry := some e }).claimRead .request e.place.sector (e.place.granule 0)
      (footprint e.length / 8)

/-- READ's CHECK (R116). -/
def Request.startRead (r : Request) (s : State) : State :=
  match r.refusedBy false with
  | some c => s.endPlain r c
  | none => if keyIsInvalid r.params.key then s.endPlain r .keyInvalid else r.readLookup s

/-- The payload bytes that a read run has brought are written into the slot's buffer from position 0, without padding (R117). -/
def Request.deliver (r : Request) (e : Entry) (data : List Byte) (s : State) : State :=
  s.setSlot r.slot ((s.slot r.slot).fillBuffer ((data.drop 24).take e.length))

/-- The end of TRANSFER with all its bytes (R117, R118). -/
def Request.readDone (r : Request) (e : Entry) (data : List Byte) (s : State) : State :=
  let t := r.deliver e data s
  if recordPasses data e then t.endRequest r .ok e.fields
  else { t with eng := { t.eng with corruptReads := bump t.eng.corruptReads } }.endRequest r .corrupt e.fields

/-- An ERASING answer to a READ (R119): LOOKUP and TRANSFER are repeated. Where the entry has not left the sector being erased, the
READ stands at LOOKUP until its row comes again (log entry 6). -/
def Request.readErasing (r : Request) (e : Entry) (s : State) : State :=
  match s.idx.lookup r.params.key with
  | some f => if f.place.sector = e.place.sector then s.setReq { r with phase := .lookup, entry := none } else r.readLookup s
  | none => r.readLookup s

/-! ### WRITE, CLASS_SET and CLASS_FREEZE from PLACE onward (R123 to R130, R138) -/

/-- The index entry of the record written (R128). -/
def WriteJob.entry (j : WriteJob) (p : Place) : Entry :=
  { key := j.key, cls := j.cls, place := p, length := j.length, version := j.version, moving := false }

/-- The descriptor granule of the record written (R125). -/
def WriteJob.descriptor (j : WriteJob) : List Byte :=
  descriptorGranule { key := j.key, cls := j.cls, length := j.length, version := j.version }

/-- DESCRIPTOR (R125): the store state is tested, the change hold taken, a version taken, and the descriptor run claimed. The
version that exhausts the counter takes the store from READY to READ_ONLY (R6). -/
def Request.descriptorStep (r : Request) (p : Place) (s : State) : State :=
  let fp := footprint r.job.length
  if s.eng.store ≠ .ready then (s.givePlaceBack p fp).endPlain r .readOnly
  else
    match s.idx.takeHold r.job.key with
    | none => r.waitMove r.job.key (s.givePlaceBack p fp)
    | some (idx, old) =>
      let v := s.eng.writeSeq
      let t := { s with idx := idx, eng := { s.eng with writeSeq := v + 1 } }
      let t := if v + 1 = Config.writeSeqExhausted then t.declareReadOnly else t
      let job := { r.job with place := some p, version := v }
      (t.setReq { r with phase := .descriptor, entry := old, job := job }).claimProgram .request p.sector (p.granule 0)
        job.descriptor .exact

/-- A place is obtained (R123, R63); a second placement sets RETRIED (R127). -/
def Request.placed (r : Request) (n : SectorNo) (s : State) : State :=
  let p : Place := { sector := n, offset := (s.sector n).append }
  let flags := if r.job.faults = 0 then r.flags else { r.flags with retried := true }
  { r with flags := flags }.descriptorStep p (s.placeRecord n (footprint r.job.length))

/-- Step 3 of a host room claim (R61): an opening where 2 or more BLANK sectors exist, behind an opening of a MOVE_OPEN sector in
hand (section 4.4); NO_ROOM leads to WAIT_SPACE (R124). -/
def Request.openHost (r : Request) (s : State) : State :=
  if s.eng.store ≠ .ready then s.endPlain r .readOnly
  else if s.moveOpening then s.setReq { r with phase := .placeWait }
  else
    match s.space.chooseBlank with
    | some n =>
      if s.space.blankCount < 2 ∨ Config.sectorSeqExhausted ≤ s.space.seqCtr then
        s.setReq { r with phase := .waitSpace, flags := { r.flags with waited := true } }
      else
        let q := s.space.seqCtr
        (s.takeSeq.setReq { r with phase := .opening n q }).claimProgram .request n openNo (openGranule q roleHost) .exact
    | none => s.setReq { r with phase := .waitSpace, flags := { r.flags with waited := true } }

/-- PLACE: the host room claim (R123, R61). -/
def Request.placeStep (r : Request) (s : State) : State :=
  match s.space.findState .hostOpen with
  | some n =>
    if footprint r.job.length ≤ (s.sector n).free then r.placed n s else r.openHost (s.closeSector n)
  | none => r.openHost s

/-- The answer to the open granule run of a HOST_OPEN sector (R60). -/
def Request.openingAnswer (r : Request) (n : SectorNo) (q : Nat) (a : Answer) (s : State) : State :=
  match a with
  | .done _ => r.placeStep ((s.sectorOpened n .hostOpen q).signal .openingEnded)
  | .fault _ => r.openHost ((s.openingFaulted n).signal .openingEnded)
  | _ => s

/-- COMMIT (R126): the commit run claimed. -/
def Request.commitStep (r : Request) (p : Place) (s : State) : State :=
  (s.setReq { r with phase := .commit }).claimProgram .request p.sector (p.granule 1)
    (commitGranule r.job.descriptor r.job.payload) .exact

/-- PAYLOAD (R126): the payload run claimed; a record of length 0 has none and goes on to COMMIT. -/
def Request.payloadStep (r : Request) (p : Place) (s : State) : State :=
  if r.job.length = 0 then r.commitStep p s
  else
    (s.setReq { r with phase := .payload }).claimProgram .request p.sector (p.granule 3) (paddedPayload r.job.payload) .exact

/-- The policy that a policy code names (R149). -/
def policyOf (code : Nat) : Policy := if code = 0 then .rewritable else if code = 1 then .writeOnce else .frozen

/-- The policy code of a policy (R149). -/
def Policy.code : Policy → Nat
  | .rewritable => 0
  | .writeOnce => 1
  | .frozen => 2

/-- The class table takes the descriptor that a class request published (R152). -/
def State.takeDescriptor (s : State) (j : WriteJob) : State :=
  if keyIsSystem j.key then
    let e : ClassEntry := { policy := policyOf ((j.payload.getD 0 0).toNat), quota := ofBytes (j.payload.drop 1), present := true }
    { s with classes := s.classes.setIfInBounds (j.key - 0xFF00) e }
  else s

/-- PUBLISH (R128): a replace for a key that had an entry at the take-hold, an insert for a new one; then the class table, the
hold and the ending. -/
def Request.publish (r : Request) (p : Place) (s : State) : State :=
  let e := r.job.entry p
  match r.entry with
  | some _ =>
    ({ s with idx := (s.idx.replace e).getD s.idx }.takeDescriptor r.job).endRequest
      { r with flags := { r.flags with replaced := true } } .ok e.fields
  | none => ({ s with idx := (s.idx.insert e).1 }.takeDescriptor r.job).endRequest r .ok e.fields

/-- COMMIT answered DONE (R126, R64): the record counts live; a superseded key goes on to RETIRE_OLD, a new one to PUBLISH. -/
def Request.commitDone (r : Request) (p : Place) (s : State) : State :=
  let t := s.recordLive p.sector (footprint r.job.length)
  match r.entry with
  | some old =>
    (t.setReq { r with phase := .retireOld }).claimProgram .request old.place.sector (old.place.granule 2) markGranule .notErased
  | none => r.publish p t

/-- A program fault in the record being written (R127). -/
def Request.recordFaulted (r : Request) (p : Place) (s : State) : State :=
  let t := (s.sectorFaulted p.sector).releaseHold
  if t.eng.store ≠ .ready ∨ r.job.faults ≠ 0 then t.endPlain r .writeFault
  else { r with entry := none, job := { r.job with place := none, faults := 1 } }.placeStep t

/-- RETIRE_OLD answered (R128, R129). -/
def Request.retireOldAnswer (r : Request) (p : Place) (old : Entry) (a : Answer) (s : State) : State :=
  match a with
  | .done _ => r.publish p (s.recordRetired old.place.sector (footprint old.length))
  | .fault _ =>
    ((s.sectorFaulted old.place.sector).setReq { r with phase := .retireNew }).claimProgram .request p.sector (p.granule 2)
      markGranule .notErased
  | _ => s

/-- The retire of the new record answered (R129). -/
def Request.retireNewAnswer (r : Request) (p : Place) (a : Answer) (s : State) : State :=
  match a with
  | .done _ => (s.recordRetired p.sector (footprint r.job.length)).endPlain r .writeFault
  | .fault _ =>
    { r with flags := { r.flags with oldKept := true } }.publish p (s.sectorFaulted p.sector).declareReadOnly
  | _ => s

/-! ### CHECK of the writing requests -/

/-- The options of a WRITE (R122): the code and fields of the end that they give, if any. -/
def optionTest (p : Params) (e : Option Entry) : Option (ResultCode × ResultFields) :=
  match e with
  | none => if p.ifVersion then some (.notFound, ResultFields.zero) else none
  | some e =>
    if p.ifVersion && e.version != p.version then some (.versionMismatch, e.fields)
    else if p.ifAbsent then some (.exists_, e.fields)
    else none

/-- The class checks of a WRITE (R145). -/
def State.classTest (s : State) (cls : Nat) (e : Option Entry) : Option ResultCode :=
  let named := s.classEntry cls
  let enters := match e with
    | none => true
    | some e => e.cls != cls
  let oldFixed := match e with
    | none => false
    | some e => (s.classEntry e.cls).policy != Policy.rewritable
  if oldFixed then some .policyRefused
  else if enters && named.policy == Policy.frozen then some .policyRefused
  else if enters && named.quota != 0 && decide (named.quota ≤ s.idx.count cls) then some .quotaExceeded
  else none

/-- The lookup's answer carries the moving mark. -/
def markedEntry (e : Option Entry) : Bool :=
  match e with
  | some e => e.moving
  | none => false

/-- The index holds 1024 entries (R121). -/
def State.indexFull (s : State) : Bool := decide (Config.indexCapacity ≤ s.idx.entries.length)

/-- WRITE's CHECK (R121), and PLACE where it passes. -/
def Request.checkWrite (r : Request) (s : State) : State :=
  let p := r.params
  let e := s.idx.lookup p.key
  if keyIsSystem p.key then s.endPlain r .keyReserved
  else if keyIsInvalid p.key then s.endPlain r .keyInvalid
  else if 7 < p.clsNo then s.endPlain r .classInvalid
  else if Config.maxLength < p.length then s.endPlain r .lengthInvalid
  else
    match optionTest p e with
    | some (c, f) => s.endRequest r c f
    | none =>
      match s.classTest p.clsNo e with
      | some c => s.endPlain r c
      | none =>
        if e.isNone && s.indexFull then s.endPlain r .indexFull
        else if markedEntry e then r.waitMove p.key s
        else
          { r with job := { r.job with
            key := p.key, cls := p.clsNo, length := p.length, payload := (s.slot r.slot).bufferHead p.length } }.placeStep s

/-- WRITE taken (R15, R121). -/
def Request.startWrite (r : Request) (s : State) : State :=
  match r.refusedBy true with
  | some c => s.endPlain r c
  | none => r.checkWrite s

/-- The pair of present policy and new policy code is permitted (R150). -/
def policyChange (present : Policy) (code : Nat) : Bool :=
  match present with
  | .rewritable => code == 0 || code == 1
  | .writeOnce => code == 1
  | .frozen => false

/-- The key of a class's descriptor (R149). -/
def descriptorKey (cls : Nat) : Nat := 0xFF00 + cls

/-- The job of a class request (R138). -/
def Request.classJob (r : Request) (payload : List Byte) : Request :=
  { r with job := { r.job with key := descriptorKey r.params.clsNo, cls := 15, length := 3, payload := payload } }

/-- CLASS_SET's CHECK (R150), and PLACE where it passes. -/
def Request.checkClassSet (r : Request) (s : State) : State :=
  let c := r.params.clsNo
  let e := s.idx.lookup (descriptorKey c)
  let payload := (s.slot r.slot).bufferHead 3
  let quota := ofBytes (payload.drop 1)
  let now := s.classEntry c
  if 7 < c then s.endPlain r .classInvalid
  else if !policyChange now.policy (payload.getD 0 0).toNat then s.endPlain r .policyRefused
  else if Config.indexCapacity < quota ∨ (quota ≠ 0 ∧ quota < s.idx.count c) then s.endPlain r .quotaExceeded
  else if !now.present && s.indexFull then s.endPlain r .indexFull
  else if markedEntry e then r.waitMove (descriptorKey c) s
  else (r.classJob payload).placeStep s

/-- CLASS_SET taken (R15, R150). -/
def Request.startClassSet (r : Request) (s : State) : State :=
  match r.refusedBy true with
  | some c => s.endPlain r c
  | none => r.checkClassSet s

/-- CLASS_FREEZE's CHECK (R151), and PLACE where it passes. -/
def Request.checkClassFreeze (r : Request) (s : State) : State :=
  let c := r.params.clsNo
  let e := s.idx.lookup (descriptorKey c)
  let now := s.classEntry c
  if 7 < c then s.endPlain r .classInvalid
  else if now.policy = .frozen then s.endPlain r .policyRefused
  else if !now.present && s.indexFull then s.endPlain r .indexFull
  else if markedEntry e then r.waitMove (descriptorKey c) s
  else (r.classJob (BitVec.ofNat 8 Policy.frozen.code :: toBytes now.quota 2)).placeStep s

/-- CLASS_FREEZE taken (R15, R151). -/
def Request.startClassFreeze (r : Request) (s : State) : State :=
  match r.refusedBy true with
  | some c => s.endPlain r c
  | none => r.checkClassFreeze s

/-! ### DELETE (R131, R132) -/

/-- DELETE's CHECK (R131), the take-hold at its end (R84), and RETIRE's run (R132). -/
def Request.checkDelete (r : Request) (s : State) : State :=
  let p := r.params
  if s.eng.store ≠ .ready then s.endPlain r .readOnly
  else if keyIsSystem p.key then s.endPlain r .keyReserved
  else if keyIsInvalid p.key then s.endPlain r .keyInvalid
  else
    match s.idx.lookup p.key with
    | none => s.endPlain r .notFound
    | some e =>
      if p.ifVersion && e.version != p.version then s.endRequest r .versionMismatch e.fields
      else if (s.classEntry e.cls).policy ≠ .rewritable then s.endPlain r .policyRefused
      else
        match s.idx.takeHold p.key with
        | none => r.waitMove p.key s
        | some (idx, held) =>
          let old := held.getD e
          ({ s with idx := idx }.setReq { r with phase := .retire, entry := some old }).claimProgram .request old.place.sector
            (old.place.granule 2) markGranule .notErased

/-- DELETE taken (R15, R131). -/
def Request.startDelete (r : Request) (s : State) : State :=
  match r.refusedBy true with
  | some c => s.endPlain r c
  | none => r.checkDelete s

/-- DELETE's PUBLISH (R132, R90). -/
def Request.removed (r : Request) (e : Entry) (s : State) : State :=
  { s with idx := (s.idx.remove e.key).getD s.idx }.endRequest r .ok e.fields

/-- DELETE's RETIRE answered (R132). -/
def Request.retireAnswer (r : Request) (e : Entry) (a : Answer) (s : State) : State :=
  match a with
  | .done _ => r.removed e (s.recordRetired e.place.sector (footprint e.length))
  | .fault _ => (s.sectorFaulted e.place.sector).endPlain r .writeFault
  | _ => s

/-! ### FIND_NEXT, REPORT, RECLAIM and BAD_REQUEST -/

/-- FIND_NEXT (R133). -/
def Request.startFindNext (r : Request) (s : State) : State :=
  match r.refusedBy false with
  | some c => s.endPlain r c
  | none =>
    if 0xFF08 ≤ r.params.key then s.endPlain r .keyInvalid
    else
      match s.idx.successor r.params.key r.params.cls r.params.includeSystem with
      | some e => s.endRequest r .ok e.fields
      | none => s.endPlain r .ended

/-- The sum of the live record counts of classes 0 to 7 (R79). -/
def KeyIndex.userCount (x : KeyIndex) : Nat := (List.range 8).foldl (fun a c => a + x.count c) 0

/-- The 40 bytes of REPORT (R134, R206). -/
def State.reportBytes (s : State) : List Byte :=
  [BitVec.ofNat 8 s.eng.store.code, BitVec.ofNat 8 s.space.blankCount, BitVec.ofNat 8 (s.space.countState .retired),
    BitVec.ofNat 8 (s.space.countState .erasePending)] ++
  toBytes s.space.gen 2 ++ toBytes s.idx.userCount 2 ++ toBytes (s.idx.count 15) 2 ++ toBytes s.space.liveTotal 3 ++
  toBytes s.space.staleTotal 3 ++ toBytes s.space.minErase 3 ++ toBytes s.space.maxErase 3 ++ toBytes s.eng.writeSeq 4 ++
  toBytes s.eng.corruptReads 2 ++ toBytes s.faults.program 2 ++ toBytes s.faults.erase 2 ++
  toBytes s.mnt.findings.incomplete 2 ++ toBytes s.mnt.findings.duplicates 2 ++ toBytes s.mnt.findings.failingCrc 2 ++
  [BitVec.ofNat 8 s.mnt.findings.chainsBroken, BitVec.ofNat 8 s.mnt.findings.estimated]

/-- REPORT (R134): FILL and the end. -/
def Request.startReport (r : Request) (s : State) : State :=
  (s.setSlot r.slot ((s.slot r.slot).fillBuffer s.reportBytes)).endRequest r .ok { ResultFields.zero with length := 40 }

/-- RECLAIM (R136): the request enters CYCLE, where it is a start condition of the reclaim engine. A store that has left READY
since the taking starts no cycle, and the RECLAIM ends READ_ONLY where none is running (R12). -/
def Request.startReclaim (r : Request) (s : State) : State :=
  match r.refusedBy true with
  | some c => s.endPlain r c
  | none =>
    if s.eng.store ≠ .ready ∧ s.rcl.phase = .idle then s.endPlain r .readOnly else s.setReq { r with phase := .cycle }

/-- BAD_REQUEST (R15). -/
def Request.startBad (r : Request) (s : State) : State := s.endPlain r .badRequest

/-! ### FORMAT (R139 to R142) -/

/-- FORMAT's stop request withdrawn (R171): a cycle that a READ_ONLY store also stops keeps that stop. -/
def State.withdrawStop (s : State) : State :=
  { s with rcl := { s.rcl with
    stop := if s.eng.store = .readOnly ∧ s.rcl.phase ≠ .idle then .readOnly else .none } }

/-- END (R142). -/
def Request.formatEnd (r : Request) (s : State) : State :=
  let x : StoreState :=
    if s.space.usableCount < Config.usableThreshold ∨ s.eng.writeSeq = Config.writeSeqExhausted then .readOnly else .ready
  (s.setStore x).withdrawStop.endPlain r .ok

/-- The retire run of a sector that FORMAT retires (R70): its retire granule is read first (R43). -/
def Request.formatRetire (r : Request) (n : SectorNo) (s : State) : State :=
  (s.setReq { r with phase := .fmtReadRetire n }).claimRead .request n sectorRetireNo 1

/-- The next ERASE_PENDING sector in ascending order (R141, R69), or END. -/
def Request.formatNext (r : Request) (s : State) : State :=
  match s.space.findState .erasePending with
  | none => r.formatEnd s
  | some n =>
    if Config.eraseLimit ≤ (s.sector n).eraseCount then r.formatRetire n (s.retireSector n)
    else ((s.sectorOut n .erasing).setReq { r with phase := .fmtReadMark n }).claimRead .request n eraseMarkNo 1

/-- MARK (R140, R75, R92, R143, R73, R13), one step that ends in ERASE. -/
def Request.formatMark (r : Request) (s : State) : State :=
  let before := s.space.blankCount
  let entered := s.space.sectors.toList.any (fun e => e.state != .retired && e.state != .erasePending)
  let t := { s with
    space := { s.space.mark with gen := s.space.gen + 1 },
    idx := KeyIndex.reset,
    classes := Vector.replicate 8 ClassEntry.default,
    rcl := { s.rcl with
      noVictim := s.rcl.noVictim && !entered,
      excluded := s.rcl.excluded.filter (fun x => (s.sector x.sector).state != SectorState.full) } }
  r.formatNext ((t.setStore .formatting).blankMoved before)

/-- FORMAT's CHECK and STOP_RECLAIM (R139). -/
def Request.startFormat (r : Request) (s : State) : State :=
  if s.space.gen = Config.generationLimit then s.endPlain r .formatLimit
  else
    let t := { s with rcl := { s.rcl with stop := .format } }
    if t.rcl.phase = .idle then r.formatMark t else (t.setReq { r with phase := .stopReclaim }).signal .stopAsked

/-- FORMAT's erase of a sector claimed (R141). -/
def Request.formatErase (r : Request) (n : SectorNo) (s : State) : State :=
  (s.setReq { r with phase := .fmtErase n }).claimErase .request n

/-- A program run that marks a granule, claimed for FORMAT. -/
def Request.formatProgram (r : Request) (phase : Phase) (n : SectorNo) (granule : Nat) (data : List Byte) (mode : Verify)
    (s : State) : State :=
  (s.setReq { r with phase := phase }).claimProgram .request n granule data mode

/-- The answers to FORMAT's claims in ERASE (R141, R68, R44, R70). -/
def Request.formatAnswer (r : Request) (a : Answer) (s : State) : State :=
  match r.phase, a with
  | .fmtReadMark n, .bytes g =>
    if allErased g then r.formatProgram (.fmtMark n) n eraseMarkNo markGranule .notErased s else r.formatErase n s
  | .fmtMark n, .done _ => r.formatErase n s
  | .fmtMark n, .fault _ => r.formatRetire n (s.retireSector n)
  | .fmtErase n, .done _ =>
    let t := s.sectorErased n
    r.formatProgram (.fmtHeader n) n identityNo (identityGranule t.space.gen ((t.sector n).eraseCount + 1)) .exact t
  | .fmtErase n, .fault _ => r.formatRetire n (s.retireSector n)
  | .fmtHeader n, .done _ => r.formatNext (s.sectorHeaded n)
  | .fmtHeader n, .fault _ => r.formatRetire n (s.identityFaulted n)
  | .fmtReadRetire n, .bytes g =>
    if allErased g then r.formatProgram (.fmtRetire n) n sectorRetireNo markGranule .notErased s else r.formatNext s
  | .fmtRetire _, .done _ => r.formatNext s
  | .fmtRetire _, .fault _ => r.formatNext s
  | _, _ => s

/-! ### Abort (R115) -/

/-- The request has passed its point of no return (R115). DESIGN CHOICE (log entry 37): it goes by the phase that the request is in, so that
in a retry, from PLACE to PAYLOAD of the second placement, an abort is taken although the commit run of the first was granted (R130). -/
def Request.tooLate (r : Request) (s : State) : Bool :=
  match r.phase with
  | .taken => r.params.rq == codeFindNext || r.params.rq == codeReport
  | .commit => !s.claimWaits .request
  | .retireOld => true
  | .retireNew => true
  | .retire => true
  | .fmtReadMark _ => true
  | .fmtMark _ => true
  | .fmtErase _ => true
  | .fmtHeader _ => true
  | .fmtReadRetire _ => true
  | .fmtRetire _ => true
  | _ => false

/-- An abort taken (R115): a waiting claim is withdrawn, a run in service asked to stop and its answer awaited, a place whose
descriptor run has not been granted given back, and the request ended ABORTED. -/
def Request.takeAbort (r : Request) (s : State) : State :=
  if s.runInService .request then (s.askStop .request).setReq { r with aborting := true }
  else
    let t := s.withdraw .request
    match r.phase, r.job.place with
    | .descriptor, some p => (t.givePlaceBack p (footprint r.job.length)).endPlain r .aborted
    | .opening _ _, _ => (t.endPlain r .aborted).signal .openingEnded
    | .stopReclaim, _ => t.withdrawStop.endPlain r .aborted
    | _, _ => t.endPlain r .aborted

/-- An abort reaches the request engine for its ACTIVE request (R115). After the halt it changes nothing (R191), nor does a
second one (R18, R102). -/
def State.abortRequest (s : State) : State :=
  match s.eng.req with
  | none => s
  | some r =>
    if s.eng.store = .halted ∨ r.flags.abortLate ∨ r.aborting then s
    else if r.tooLate s then s.setReq { r with flags := { r.flags with abortLate := true } }
    else r.takeAbort s

/-- The answer that an aborted request waited for (R115, R120, R130): what the run did still counts, and the request ends ABORTED. An open
granule run has one granule, so that its STOPPED (R26) says that the open granule verified, as DONE does (R60; log entry 31). -/
def Request.abortedAnswer (r : Request) (a : Answer) (s : State) : State :=
  match r.phase, a with
  | .transfer, .bytes d => (r.entry.elim s (fun e => r.deliver e d s)).endPlain r .aborted
  | .transfer, .stopped d _ => (r.entry.elim s (fun e => r.deliver e d s)).endPlain r .aborted
  | .opening n q, .done _ => ((s.sectorOpened n .hostOpen q).endPlain r .aborted).signal .openingEnded
  | .opening n q, .stopped _ _ => ((s.sectorOpened n .hostOpen q).endPlain r .aborted).signal .openingEnded
  | .opening n _, .fault _ => ((s.openingFaulted n).endPlain r .aborted).signal .openingEnded
  | .descriptor, .fault _ => (r.job.place.elim s (fun p => s.sectorFaulted p.sector)).endPlain r .aborted
  | .payload, .fault _ => (r.job.place.elim s (fun p => s.sectorFaulted p.sector)).endPlain r .aborted
  | _, _ => s.endPlain r .aborted

/-! ### Power-fail halt (R191 to R193) -/

/-- The bytes that a READ's run had brought when the halt ended it (R193). -/
def Request.haltDeliver (r : Request) (a : Answer) (s : State) : State :=
  match r.phase, r.entry, a with
  | .transfer, some e, .bytes d => r.deliver e d s
  | .transfer, some e, .stopped d _ => r.deliver e d s
  | .transfer, some e, .halted d _ => r.deliver e d s
  | _, _, _ => s

/-- The end of a request whose run in service has been answered after the halt (R192, R193). -/
def Request.haltedAnswer (r : Request) (a : Answer) (s : State) : State :=
  let t := r.haltDeliver a s
  if r.aborting then t.endPlain r .aborted
  else
    match r.phase, r.job.place, a with
    | .commit, some p, .done _ => r.publish p t
    | .retireOld, some p, _ => r.publish p t
    | .retireNew, some _, .done _ => t.endPlain r .powerFail
    | .retireNew, some p, _ => r.publish p t
    | .retire, _, .done _ => match r.entry with
      | some e => r.removed e t
      | none => t.endPlain r .powerFail
    | _, _, _ => t.endPlain r .powerFail

/-- The end of a request that has no run in service when the halt reaches it (R191 to R193). -/
def Request.haltNow (r : Request) (s : State) : State :=
  match r.phase, r.job.place with
  | .retireOld, some p => r.publish p s
  | .retireNew, some p => r.publish p s
  | _, _ => s.endPlain r .powerFail

/-- The halt reaches the request engine (R191): a request with a run in service waits for its answer. -/
def State.haltRequest (s : State) : State :=
  match s.eng.req with
  | none => s
  | some r => if s.runInService .request then s else r.haltNow s

/-! ### Answers and signals to the request engine -/

/-- A plane controller's answer reaches the request engine. -/
def State.requestAnswer (s : State) (a : Answer) : State :=
  match s.eng.req with
  | none => s
  | some r =>
    if s.eng.store = .halted then r.haltedAnswer a s
    else if r.aborting then r.abortedAnswer a s
    else
      match r.phase, r.entry, r.job.place with
      | .transfer, some e, _ => match a with
        | .bytes d => r.readDone e d s
        | .erasing => r.readErasing e s
        | _ => s
      | .opening n q, _, _ => r.openingAnswer n q a s
      | .descriptor, _, some p => match a with
        | .done _ => r.payloadStep p s
        | .fault _ => r.recordFaulted p s
        | _ => s
      | .payload, _, some p => match a with
        | .done _ => r.commitStep p s
        | .fault _ => r.recordFaulted p s
        | _ => s
      | .commit, _, some p => match a with
        | .done _ => r.commitDone p s
        | .fault _ => r.recordFaulted p s
        | _ => s
      | .retireOld, some e, some p => r.retireOldAnswer p e a s
      | .retireNew, _, some p => r.retireNewAnswer p a s
      | .retire, some e, _ => r.retireAnswer e a s
      | _, _, _ => r.formatAnswer a s

/-- The moving mark that the request waits on has cleared (R86): the request stands in CHECK again, where an abort is still taken, or ends
READ_ONLY where the store has left READY (R12). Its row carries the repeated CHECK out, as it does the first (log entries 3 and 36). -/
def State.requestUnmarked (s : State) : State :=
  match s.eng.req with
  | none => s
  | some r =>
    if r.phase = .waitMove then
      let t := s.dropWaiter
      if t.eng.store ≠ .ready then t.endPlain r .readOnly else t.setReq { r with phase := .taken }
    else s

/-- The BLANK count has changed: a write in WAIT_SPACE repeats PLACE where it is 2 or more (R124). -/
def State.requestBlank (s : State) : State :=
  match s.eng.req with
  | none => s
  | some r => if r.phase = .waitSpace ∧ 2 ≤ s.space.blankCount then r.placeStep s else s

/-- An open granule run that still waits for its plane is not begun in READ_ONLY (R12, R61): the claim is withdrawn, the room claim
answered READ_ONLY, and the write ends (R123; log entry 32). -/
def Request.openingRefused (r : Request) (s : State) : State :=
  if s.claimWaits .request then ((s.withdraw .request).endPlain r .readOnly).signal .openingEnded else s

/-- The store has entered READ_ONLY (R12): a write in WAIT_SPACE ends (R124), and so does one whose opening is not begun. A write whose
version is taken runs on, its descriptor claim waiting or not, and so does a DELETE in RETIRE (log entry 32). -/
def State.requestReadOnly (s : State) : State :=
  match s.eng.req with
  | none => s
  | some r =>
    match r.phase with
    | .waitSpace => s.endPlain r .readOnly
    | .opening _ _ => r.openingRefused s
    | _ => s

/-- An opening has ended: a write at PLACE behind it makes its room claim again (section 4.4). -/
def State.requestRoom (s : State) : State :=
  match s.eng.req with
  | none => s
  | some r => if r.phase = .placeWait then r.placeStep s else s

/-- A reclaim cycle has ended (R157): the end of a RECLAIM (R136), STORE_FULL for a write in WAIT_SPACE (R124), MARK for a FORMAT in
STOP_RECLAIM (R139). A cycle ends stopped with a RECLAIM waiting only in READ_ONLY (log entry 17). -/
def State.requestCycleEnded (s : State) (how : CycleEnd) : State :=
  match s.eng.req with
  | none => s
  | some r =>
    match r.phase, how with
    | .cycle, .completed => s.endPlain r .ok
    | .cycle, .faulted => s.endPlain r .ok
    | .cycle, .abandoned declared => s.endPlain r (if declared then .readOnly else .ok)
    | .cycle, .noVictim => s.endPlain { r with flags := { r.flags with noVictim := true } } .ok
    | .cycle, .stopped => if s.eng.store = .ready then s else s.endPlain r .readOnly
    | .waitSpace, .noVictim => s.endPlain r .storeFull
    | .stopReclaim, _ => r.formatMark s
    | _, _ => s

end Sys2Proof.Machine
end

