-- ==== Sys2Proof/Machine/Settle.lean ====
section
/-! DEFINITION. How the blocks act on what one has told another within a step (log entry 4): the agenda is emptied first in, first out,
and the reclaim engine then tests its start conditions (R156). -/

namespace Sys2Proof.Machine

/-- A signal reaches the block or blocks that it concerns. -/
def State.deliver (s : State) : Signal → State
  | .answer .request a => s.requestAnswer a
  | .answer .reclaim a => s.reclaimAnswer a
  | .answer .mount a => s.mountAnswer a
  | .unmarked => s.requestUnmarked
  | .holdReleased => s.reclaimHoldReleased
  | .blankChanged => s.requestBlank
  | .storeReadOnly => s.reclaimReadOnly.requestReadOnly
  | .cycleEnded how => s.requestCycleEnded how
  | .take => s.takeHead
  | .openingEnded => s.requestRoom.reclaimRoom
  | .stopAsked => s.stopNow

/-- The agenda emptied from its head, over at most as many signals as given. -/
def State.drain (s : State) : Nat → State
  | 0 => s
  | k + 1 =>
    match s.agenda with
    | [] => s
    | x :: l => ({ s with agenda := l }.deliver x).drain k

/-- The most signals that one step delivers; each passes work on to a block that then waits for a plane or for a command, so that a
step raises far fewer (log entry 4). -/
def settleFuel : Nat := 256

/-- What follows within a step once the block that acted first has gone as far as it can. -/
def State.settle (s : State) : State := (s.drain settleFuel).startTest

end Sys2Proof.Machine
end

