-- ==== Sys2Proof/Machine/PlaneCmds.lean ====
section
/-! DEFINITION. The events at the plane controllers (chapter 2): the end of a read run, of a granule program, of an erase, and of an
ordered suspension. An event that nothing in hand on the plane can bring changes nothing (log entry 5). -/

namespace Sys2Proof.Machine

/-- The run in service of the plane has ended with the answer given: the plane grants what waits or resumes its erase, and the
claimant acts on the answer. -/
def State.runEnded (s : State) (p : PlaneId) (who : Claimant) (a : Answer) : State :=
  ((s.setPlane p ((s.plane p).finishRun s.win.suslim)).signal (.answer who a)).settle

/-- The erase of the plane has ended with the answer given (R27, R28). -/
def State.eraseEnded (s : State) (p : PlaneId) (who : Claimant) (a : Answer) : State :=
  ((s.setPlane p ((s.plane p).finishErase s.win.suslim)).signal (.answer who a)).settle

/-- A program fault counted (R25, R38). -/
def State.countProgramFault (s : State) : State := { s with faults := { s.faults with program := bump s.faults.program } }

/-- An erase fault counted (R28, R38). -/
def State.countEraseFault (s : State) : State := { s with faults := { s.faults with erase := bump s.faults.erase } }

/-- The bytes of the first `n` granules of a run (R23). -/
def State.runBytes (s : State) (c : Claim) (n : Nat) : List Byte := flashRead s.flash c.sector (8 * c.first) (8 * n)

/-- The answer to a read run of `count` granules (R23, R36): HALTED on a halted plane, STOPPED where a stop came before the last granule
had been read, and otherwise all its bytes. `got` is how many granules were read when a stop or a halt ended it; more than `count` says that
the stop came after the last. -/
def State.readAnswer (s : State) (halted : Bool) (r : Run) (count got : Nat) : Answer :=
  let n := min (max got 1) count
  if halted then .halted (s.runBytes r.claim n) n
  else if r.stop && decide (got ≤ count) then .stopped (s.runBytes r.claim n) n
  else .bytes (s.runBytes r.claim count)

/-- READ_RUN_DONE (R23). -/
def execReadRunDone (p : PlaneId) (granules : Nat) (s : State) : Host.Outcome State Fault Refusal :=
  match (s.plane p).run with
  | none => .next s
  | some r =>
    match r.claim.work with
    | .read count =>
      if Config.granulesPerSector < r.claim.first + count then .fault .pastSector
      else .next (s.runEnded p r.claim.who (s.readAnswer (s.plane p).halted r count granules))
    | _ => .next s

/-- The granule whose program is in progress: its content before, and the content given. -/
def State.granuleAt (s : State) (c : Claim) (done : Nat) : List Byte := flashRead s.flash c.sector (8 * (c.first + done)) 8

/-- The content given for a granule of a program run. -/
def granuleData (data : List Byte) (done : Nat) : List Byte := (data.drop (8 * done)).take 8

/-- The role of the granule in progress. -/
def runRole (flash : List Host.Cell) (r : Run) (data : List Byte) : GranuleRole :=
  let g := r.claim.first + r.done
  granuleRole g data (flashRead flash r.claim.sector (8 * (g - 1)) 8)

/-- The granule in progress holds the bytes given. -/
def State.setGranule (s : State) (c : Claim) (done : Nat) (g : List Byte) : State :=
  { s with flash := flashWrite s.flash c.sector (8 * (c.first + done)) g }

/-- The granule verifies under the mode of the run (R24). -/
def verifies (mode : Verify) (given readBack : List Byte) : Bool :=
  match mode with
  | .exact => readBack == given
  | .notErased => !allErased readBack

/-- A granule of a program run has verified (R24, R26, R36): STOPPED where a stop was asked while its program was in progress, the last
granule's too, but that a halt answers DONE at the last and HALTED before it; DONE at the last; and otherwise the next granule. -/
def State.granuleVerified (s : State) (p : PlaneId) (r : Run) (count : Nat) : State :=
  if r.stop && !(s.plane p).halted then s.runEnded p r.claim.who (.stopped [] (r.done + 1))
  else if count ≤ r.done + 1 then s.runEnded p r.claim.who (.done count)
  else if (s.plane p).halted then s.runEnded p r.claim.who (.halted [] (r.done + 1))
  else s.setPlane p { s.plane p with run := some { r with done := r.done + 1 } }

/-- A granule of a program run has faulted (R25). -/
def State.granuleFaulted (s : State) (p : PlaneId) (r : Run) : State :=
  s.countProgramFault.runEnded p r.claim.who (.fault r.done)

/-- What a granule that failed its verify holds (R25): what was read back, within what R54 lets a fault leave. -/
def failedVerify (mode : Verify) (role : GranuleRole) (old given readBack : List Byte) : List Byte :=
  match mode with
  | .exact => faultLeaves role old given readBack
  | .notErased => readBack

/-- GRANULE_PROGRAM_DONE (R24, R25): the granule holds what the cells took, and is verified. -/
def execGranuleProgramDone (p : PlaneId) (flaw : Option (List Byte)) (s : State) : Host.Outcome State Fault Refusal :=
  match (s.plane p).run with
  | none => .next s
  | some r =>
    match r.claim.work with
    | .program data mode =>
      if Config.granulesPerSector ≤ r.claim.first + r.done then .fault .pastSector
      else
        let old := s.granuleAt r.claim r.done
        let given := granuleData data r.done
        let took := programmed old (flaw.getD given)
        .next
          (if verifies mode given took then (s.setGranule r.claim r.done took).granuleVerified p r (data.length / 8)
          else (s.setGranule r.claim r.done (failedVerify mode (runRole s.flash r data) old given took)).granuleFaulted p r)
    | _ => .next s

/-- What a granule holds after its program timed out (R25, R20), within what R54 lets a fault leave: in EXACT mode no valid identity or open
granule and no commit granule as it was given, and in NOT_ERASED mode the granule as it was (R50, R44; log entry 7). -/
def timedOut (mode : Verify) (role : GranuleRole) (old given kept : List Byte) : List Byte :=
  match mode with
  | .exact => faultLeaves role old given (cutOff old given kept)
  | .notErased => old

/-- PROGRAM_TIMEOUT (R25). -/
def execProgramTimeout (p : PlaneId) (kept : List Byte) (s : State) : Host.Outcome State Fault Refusal :=
  match (s.plane p).run with
  | none => .next s
  | some r =>
    match r.claim.work with
    | .program data mode =>
      if Config.granulesPerSector ≤ r.claim.first + r.done then .fault .pastSector
      else
        let left := timedOut mode (runRole s.flash r data) (s.granuleAt r.claim r.done) (granuleData data r.done) kept
        .next ((s.setGranule r.claim r.done left).granuleFaulted p r)
    | _ => .next s

/-- The erase of a plane that can come to its end now: running or suspending (R27, R28, R31). -/
def Plane.endingErase (p : Plane) : Option EraseOp :=
  match p.erase with
  | some e => if e.cond = .suspended then none else some e
  | none => none

/-- ERASE_BLANK_CHECK (R27, R28): DONE where the sector reads erased throughout, and an erase fault otherwise. -/
def execEraseBlankCheck (p : PlaneId) (left : List Host.Cell) (s : State) : Host.Outcome State Fault Refusal :=
  match (s.plane p).endingErase with
  | none => .next s
  | some e =>
    let t := { s with flash := flashLoad s.flash e.sector left }
    .next
      (if flashBlank t.flash e.sector then t.eraseEnded p e.who (.done 0)
      else t.countEraseFault.eraseEnded p e.who (.fault 0))

/-- ERASE_TIMEOUT (R28). -/
def execEraseTimeout (p : PlaneId) (left : List Host.Cell) (s : State) : Host.Outcome State Fault Refusal :=
  match (s.plane p).endingErase with
  | none => .next s
  | some e =>
    .next ({ s with flash := flashLoad s.flash e.sector left }.countEraseFault.eraseEnded p e.who (.fault 0))

/-- An ordered suspension completes on a plane (R31): the suspend count rises, and the plane serves the claim that waits, or resumes
at once where it has been withdrawn. -/
def Plane.suspend (p : Plane) (suslim : Nat) (e : EraseOp) : Plane :=
  let e := { e with cond := .suspended, count := e.count + 1 }
  let q := { p with erase := some e }
  if q.run.isSome then q else q.serveOrResume suslim e

/-- SUSPEND_COMPLETE (R31). -/
def execSuspendComplete (p : PlaneId) (s : State) : Host.Outcome State Fault Refusal :=
  match (s.plane p).erase with
  | none => .next s
  | some e =>
    .next (if e.cond = .suspending then s.setPlane p ((s.plane p).suspend s.win.suslim e) else s)

end Sys2Proof.Machine
end

