-- ==== Sys2Proof/Machine/RequestCmds.lean ====
section
/-! DEFINITION. The rows of the request engine, one per request code and BAD_REQUEST (chapter 7), and SELECT of the reclaim engine
(R160). A row acts when the ACTIVE request, or the head of the queue that an IDLE engine takes, is one of its code and stands in CHECK,
at its taking or after the clear-moving that it waited for (R86); otherwise it is not due and changes nothing (log entry 5). -/

namespace Sys2Proof.Machine

/-- The request stands in CHECK (R114, R86), its parameters are such as given, and no halt has come. -/
def Request.dueAt (r : Request) (ok : Params → Bool) (s : State) : Bool :=
  r.phase == .taken && ok r.params && s.eng.store != .halted

/-- A row of the request engine: where a request is due, `start` carries it on from its CHECK, and what that tells other blocks
follows. -/
def State.serve (s : State) (ok : Params → Bool) (start : Request → State → State) : State :=
  let t := s.takeHead
  match t.eng.req with
  | some r => if r.dueAt ok t then (start r t).settle else s
  | none => s

/-- The READ that stands at LOOKUP after an ERASING answer (R119, log entry 6), if any. -/
def State.atLookup (s : State) : Option Request :=
  match s.eng.req with
  | some r => if r.phase = .lookup then some r else none
  | none => none

/-- READ (R116): also LOOKUP again after an ERASING answer (R119). -/
def execRead (s : State) : Host.Outcome State Fault Refusal :=
  match s.atLookup with
  | some r => .next (r.readLookup s).settle
  | none => .next (s.serve (Params.isCode codeRead) Request.startRead)

/-- WRITE (R121). -/
def execWrite (s : State) : Host.Outcome State Fault Refusal := .next (s.serve (Params.isCode codeWrite) Request.startWrite)

/-- DELETE (R131). -/
def execDelete (s : State) : Host.Outcome State Fault Refusal := .next (s.serve (Params.isCode codeDelete) Request.startDelete)

/-- FIND_NEXT (R133). -/
def execFindNext (s : State) : Host.Outcome State Fault Refusal :=
  .next (s.serve (Params.isCode codeFindNext) Request.startFindNext)

/-- REPORT (R134). -/
def execReport (s : State) : Host.Outcome State Fault Refusal := .next (s.serve (Params.isCode codeReport) Request.startReport)

/-- RECLAIM (R136). -/
def execReclaim (s : State) : Host.Outcome State Fault Refusal := .next (s.serve (Params.isCode codeReclaim) Request.startReclaim)

/-- CLASS_SET (R150). -/
def execClassSet (s : State) : Host.Outcome State Fault Refusal := .next (s.serve (Params.isCode codeClassSet) Request.startClassSet)

/-- CLASS_FREEZE (R151). -/
def execClassFreeze (s : State) : Host.Outcome State Fault Refusal :=
  .next (s.serve (Params.isCode codeClassFreeze) Request.startClassFreeze)

/-- FORMAT (R139). -/
def execFormat (s : State) : Host.Outcome State Fault Refusal := .next (s.serve (Params.isCode codeFormat) Request.startFormat)

/-- BAD_REQUEST (R15). -/
def execBadRequest (s : State) : Host.Outcome State Fault Refusal := .next (s.serve Params.bad Request.startBad)

/-- SELECT (R160): a cycle that has entered SELECT, or that a start condition lets enter it now, names its sector. -/
def execSelect (s : State) : Host.Outcome State Fault Refusal :=
  let t := s.startTest
  .next (if t.rcl.act = .select then t.selectRow.settle else s)

end Sys2Proof.Machine
end

