-- ==== Sys2Proof/Machine/SystemCmds.lean ====
section
/-! DEFINITION. The two events on the pins RESET# and PFI#: the chip reset (R207) and the power-fail halt (chapter 11). -/

namespace Sys2Proof.Machine

/-! ### Power-fail halt -/

/-- What an erase cut off leaves of a sector (R20), which mount is to find ERASE_PENDING (R37, R196): the bytes given, where their header is
one that the cut-off may leave, and otherwise the sector as it was (log entry 7). -/
def cutErase (flash : List Host.Cell) (n : SectorNo) (left : List Host.Cell) : List Host.Cell :=
  let cut := flashLoad flash n left
  if cutHeader (flashRead flash n 0 32) (flashRead cut n 0 32) then cut else flash

/-- A plane abandons its erase (R36): the sector holds what the cut-off erase left. -/
def abandonErase (flash : List Host.Cell) (p : Plane) (left : List Host.Cell) : List Host.Cell :=
  match p.erase with
  | some e => cutErase flash e.sector left
  | none => flash

/-- The halt reaches both plane controllers (R36). -/
def State.haltPlanes (s : State) (left0 left1 : List Host.Cell) : State :=
  { s with
    flash := abandonErase (abandonErase s.flash s.pl0 left0) s.pl1 left1
    pl0 := s.pl0.halt
    pl1 := s.pl1.halt }

/-- The slots of the queue end with POWER_FAIL, in queue order, and the queue is empty (R194). -/
def State.haltQueue (s : State) : State :=
  s.win.queue.foldl (fun t n => t.endSlot n .powerFail) { s with win := { s.win with queue := [] } }

/-- The halt (R190): the flag is latched, the store HALTED, and every block is told. -/
def State.halt (s : State) (left0 left1 : List Host.Cell) : State :=
  ((({ s with halted := true }.haltPlanes left0 left1).setStore .halted).reclaimHalt.haltQueue.haltRequest).settle

/-- POWER_FAIL_HALT (R190): a second assertion while the flag is latched changes nothing, and PFI# is not watched while RESET# is held low
(R207). -/
def execPowerFailHalt (left0 left1 : List Host.Cell) (s : State) : Host.Outcome State Fault Refusal :=
  .next (if s.halted || s.resetLow then s else s.halt left0 left1)

/-! ### Chip reset -/

/-- What a chip reset leaves on flash of a program in progress (R37, R20). -/
def cutProgram (flash : List Host.Cell) (p : Plane) (kept : List Byte) : List Host.Cell :=
  match p.run with
  | some r =>
    match r.claim.work with
    | .program data _ =>
      let g := r.claim.first + r.done
      if g < Config.granulesPerSector then
        let old := flashRead flash r.claim.sector (8 * g) 8
        let given := granuleData data r.done
        flashWrite flash r.claim.sector (8 * g) (cutLeaves (runRole flash r data) old given (cutOff old given kept))
      else flash
    | _ => flash
  | none => flash

/-- What a chip reset leaves on flash of the work in hand on a plane: a program cut off, and an erase cut off, running or suspended
(R37). -/
def cutPlane (flash : List Host.Cell) (p : Plane) (t : Torn) : List Host.Cell :=
  abandonErase (cutProgram flash p t.granule) p t.sector

/-- The flash content that a chip reset leaves. -/
def State.cutFlash (s : State) (torn0 torn1 : Torn) : List Host.Cell := cutPlane (cutPlane s.flash s.pl0 torn0) s.pl1 torn1

/-- RESET# is released (R207): mount begins (R174). PFI# low at that moment is latched at once, before mount has read any sector (R8). -/
def State.leaveReset (s : State) (pfiLow : Bool) : State :=
  let t := { s with resetLow := false }
  if pfiLow then t.halt [] [] else t.headerAt 0

/-- CHIP_RESET (R207, R113), with what the cut-off leaves in each plane: RESET# low puts every block at its chip-reset value and holds it
there; its release ends the reset, and changes nothing of a part that is not in it. -/
def execChipReset (edge : ResetEdge) (torn0 torn1 : Torn) (s : State) : Host.Outcome State Fault Refusal :=
  match edge with
  | .asserted => .next (State.atReset (s.cutFlash torn0 torn1) s.pending)
  | .released pfiLow => .next (if s.resetLow then s.leaveReset pfiLow else s)

end Sys2Proof.Machine
end

