-- ==== Sys2Proof/WellFormed.lean ====
section
/-! DEFINITION. Which commands are well formed: an ACTION_CODE carries a value that names no action (R103, R204), since a write of one that
does is spelled by the row of its action (log entry 23), and the flash contents that an event carries are whole granules and bytes of one
sector (R19). -/

namespace Sys2Proof

/-- A granule's bytes are eight (R19). -/
def granuleWf (g : List Byte) : Bool := g.length == 8

/-- The offsets strictly rise, lie in one sector, and no byte listed reads 0xFF (R19). -/
def sectorCellsWf : List Host.Cell → Bool
  | [] => true
  | [c] => decide (c.1 < 4096) && c.2 != 0xFF
  | c :: d :: m => decide (c.1 < d.1) && decide (c.1 < 4096) && c.2 != 0xFF && sectorCellsWf (d :: m)

/-- A plane's cut-off contents are well formed. -/
def Torn.wf (t : Torn) : Bool := granuleWf t.granule && sectorCellsWf t.sector

/-- No cut-off: the contents that the release of RESET# carries. -/
def Torn.none : Torn := { granule := [], sector := [] }

/-- What an edge of RESET# carries is well formed: its release cuts nothing off. -/
def ResetEdge.wf (t0 t1 : Torn) : ResetEdge → Bool
  | .asserted => t0.wf && t1.wf
  | .released _ => t0 == .none && t1 == .none

/-- The value names one of the five actions (R204). -/
def namesAction (v : Byte) : Bool := decide (1 ≤ v.toNat) && decide (v.toNat ≤ 5)

/-- The command is spelled by its own row and carries contents of the right size. -/
def Instr.wellFormed : Instr → Bool
  | .chipReset e t0 t1 => e.wf t0 t1
  | .powerFailHalt l0 l1 => sectorCellsWf l0 && sectorCellsWf l1
  | .actionCode v => !namesAction v
  | .granuleProgramDone _ flaw => flaw.all granuleWf
  | .programTimeout _ kept => granuleWf kept
  | .eraseBlankCheck _ left => sectorCellsWf left
  | .eraseTimeout _ left => sectorCellsWf left
  | .claim => true
  | .submit => true
  | .discard => true
  | .abort => true
  | .release => true
  | .windowReset _ => true
  | .reclaimMode _ => true
  | .iflagWrite _ => true
  | .imaskWrite _ => true
  | .lowmkWrite _ => true
  | .suslimWrite _ => true
  | .wearspWrite _ => true
  | .slotselWrite _ => true
  | .bdataRead => true
  | .bdataWrite _ => true
  | .bptrWrite _ => true
  | .paramWrite _ _ => true
  | .readOnlyByteWrite _ _ => true
  | .read => true
  | .write => true
  | .delete => true
  | .findNext => true
  | .report => true
  | .reclaim => true
  | .classSet => true
  | .classFreeze => true
  | .format => true
  | .badRequest => true
  | .readRunDone _ _ => true
  | .suspendComplete _ => true
  | .select => true

end Sys2Proof
end

