-- ==== Sys2Proof/Machine/WindowCmds.lean ====
section
/-! DEFINITION. The host's accesses to the window (chapters 6 and 12): the actions, the window reset, the part-wide bytes and the slot
bytes. -/

namespace Sys2Proof.Machine

/-- The selected slot is in the state given and not hidden by a window reset (R94, R112). -/
def State.selectedIn (s : State) (st : SlotState) : Bool := !s.selected.hidden && s.selected.state == st

/-- The selected slot set. -/
def State.setSelected (s : State) (x : Slot) : State := s.setSlot s.win.sel x

/-! ### The actions (R204) -/

/-- CLAIM (R97). -/
def State.claimAction (s : State) : State :=
  if s.selectedIn .free then s.setSelected s.selected.claimed else s.windowFault .actionState

/-- The selected slot joins the tail of the queue (R98, R104). -/
def State.enqueue (s : State) : State :=
  let t := s.setSelected { s.selected with state := .queued }
  { t with win := { t.win with queue := t.win.queue ++ [t.win.sel] } }

/-- SUBMIT (R98): in HALTED the slot ends POWER_FAIL; otherwise it is queued, and an IDLE engine takes the head at once. -/
def State.submitAction (s : State) : State :=
  if s.selectedIn .opened then
    if s.eng.store = .halted then s.endSlot s.win.sel .powerFail else s.enqueue.takeHead
  else s.windowFault .actionState

/-- DISCARD (R99). -/
def State.discardAction (s : State) : State :=
  if s.selectedIn .opened then s.setSelected { s.selected with state := .free } else s.windowFault .actionState

/-- ABORT of a QUEUED slot (R101): it leaves the queue and ends ABORTED. -/
def State.abortQueued (s : State) : State :=
  { s with win := { s.win with queue := s.win.queue.filter (fun n => n != s.win.sel) } }.endSlot s.win.sel .aborted

/-- ABORT (R101, R102). -/
def State.abortAction (s : State) : State :=
  if s.selectedIn .queued then s.abortQueued
  else if s.selectedIn .active then s.abortRequest.settle
  else s.windowFault .actionState

/-- RELEASE of a DONE slot (R100). -/
def State.released (s : State) : State :=
  let t := s.setSelected { s.selected with state := .free }
  { t with win := t.win.lower (.slotDone s.win.sel) }

/-- RELEASE (R100). -/
def State.releaseAction (s : State) : State := if s.selectedIn .done then s.released else s.windowFault .actionState

/-- An action on the selected slot (R204). -/
def State.act (s : State) : HostAction → State
  | .claim => s.claimAction
  | .submit => s.submitAction
  | .discard => s.discardAction
  | .abort => s.abortAction
  | .release => s.releaseAction

/-! ### The accesses -/

/-- An access to the window that would bring the part to `t`: it has no effect while RESET# is held low (R198). -/
def State.access (s t : State) : State := if s.resetLow then s else t

/-- CLAIM (R97). -/
def execClaim (s : State) : Host.Outcome State Fault Refusal := .next (s.access s.claimAction)

/-- SUBMIT (R98). -/
def execSubmit (s : State) : Host.Outcome State Fault Refusal := .next (s.access s.submitAction)

/-- DISCARD (R99). -/
def execDiscard (s : State) : Host.Outcome State Fault Refusal := .next (s.access s.discardAction)

/-- ABORT (R101, R102). -/
def execAbort (s : State) : Host.Outcome State Fault Refusal := .next (s.access s.abortAction)

/-- RELEASE (R100). -/
def execRelease (s : State) : Host.Outcome State Fault Refusal := .next (s.access s.releaseAction)

/-- ACTION_CODE (R103): a write to ACTION of a value that names no action records ACTION_CODE. A value that names one acts as R204 says. -/
def execActionCode (v : Byte) (s : State) : Host.Outcome State Fault Refusal :=
  .next (s.access (match actionOf v with
    | some a => s.act a
    | none => s.windowFault .actionCode))

/-- What a window reset makes of a slot (R111): an ACTIVE slot is hidden, and a slot that becomes FREE has its pointer set to 0. -/
def Slot.windowReset (x : Slot) : Slot :=
  match x.state with
  | .active => { x with hidden := true }
  | .free => x
  | _ => { x with state := .free, ptr := 0 }

/-- The reclaim mode that bit 0 of CTL gives (R199). -/
def modeOf (low : BitVec 7) : ReclaimMode := if low.getLsbD 0 then .onRequest else .auto

/-- The window unit after a window reset (R111). -/
def Window.windowReset (w : Window) (low : BitVec 7) : Window :=
  { w with slots := w.slots.map Slot.windowReset, queue := [], iflag := 0, fault := .none, mode := modeOf low }

/-- WINDOW_RESET (R111, R112): an ACTIVE request receives an abort. The write stores the reclaim mode too (R199). -/
def execWindowReset (low : BitVec 7) (s : State) : Host.Outcome State Fault Refusal :=
  .next (s.access { s with win := s.win.windowReset low }.abortRequest.settle)

/-- RECLAIM_MODE (R199, R155). -/
def execReclaimMode (low : BitVec 7) (s : State) : Host.Outcome State Fault Refusal :=
  .next (s.access { s with win := { s.win with mode := modeOf low } }.startTest)

/-- IFLAG_WRITE (R109). -/
def execIflagWrite (v : Byte) (s : State) : Host.Outcome State Fault Refusal :=
  .next (s.access { s with win := { s.win with iflag := s.win.iflag &&& ~~~v } })

/-- IMASK_WRITE (R110). -/
def execImaskWrite (v : Byte) (s : State) : Host.Outcome State Fault Refusal :=
  .next (s.access { s with win := { s.win with imask := v } })

/-- LOWMK_WRITE (R202, R72): no SPACE_LOW is raised. -/
def execLowmkWrite (v : Byte) (s : State) : Host.Outcome State Fault Refusal :=
  .next (s.access { s with win := { s.win with lowmk := clamp 2 16 v.toNat } }.startTest)

/-- SUSLIM_WRITE (R33, R202). -/
def execSuslimWrite (v : Byte) (s : State) : Host.Outcome State Fault Refusal :=
  .next (s.access { s with win := { s.win with suslim := clamp 0 63 v.toNat } })

/-- WEARSP_WRITE (R158, R202): the no-victim latch is cleared (R161), but in HALTED, where the value stored has no effect (R195, R172). -/
def execWearspWrite (v : Byte) (s : State) : Host.Outcome State Fault Refusal :=
  .next (s.access { s with
    win := { s.win with wearsp := clamp 1 255 v.toNat }
    rcl := { s.rcl with noVictim := s.rcl.noVictim && decide (s.eng.store = StoreState.halted) } }.startTest)

/-- SLOTSEL_WRITE (R95). -/
def execSlotselWrite (v : Byte) (s : State) : Host.Outcome State Fault Refusal :=
  .next (s.access (if h : v.toNat < 4 then { s with win := { s.win with sel := ⟨v.toNat, h⟩ } } else s.windowFault .selectRange))

/-- The byte that a read drives on the data lines. -/
def State.drive (s : State) (b : Byte) : State := { s with win := { s.win with busOut := b } }

/-- BDATA_READ (R106); while RESET# is held low a read returns 0x00 (R198). -/
def execBdataRead (s : State) : Host.Outcome State Fault Refusal :=
  let x := s.selected
  .next
    (if s.resetLow then s.drive 0
    else if x.bufferOpen then (s.setSelected { x with ptr := x.ptr + 1 }).drive (x.bufferByte x.ptr.toNat)
    else (s.windowFault .bufferState).drive 0)

/-- BDATA_WRITE (R106). -/
def execBdataWrite (v : Byte) (s : State) : Host.Outcome State Fault Refusal :=
  let x := s.selected
  .next (s.access
    (if x.bufferOpen then s.setSelected { x with buffer := cellSet 0 x.buffer x.ptr.toNat v, ptr := x.ptr + 1 }
    else s.windowFault .bufferState))

/-- BPTR_WRITE (R106). -/
def execBptrWrite (v : Byte) (s : State) : Host.Outcome State Fault Refusal :=
  .next (s.access (if s.selected.bufferOpen then s.setSelected { s.selected with ptr := v } else s.windowFault .bufferState))

/-- PARAM_WRITE (R96). -/
def execParamWrite (which : ParamByte) (v : Byte) (s : State) : Host.Outcome State Fault Refusal :=
  .next (s.access
    (if s.selectedIn .opened then s.setSelected { s.selected with params := s.selected.params.put which v }
    else s.windowFault .paramState))

/-- READ_ONLY_BYTE_WRITE (R198): ignored, with no window fault. -/
def execReadOnlyByteWrite (_which : ReadOnlyByte) (_v : Byte) (s : State) : Host.Outcome State Fault Refusal := .next s

end Sys2Proof.Machine
end

