-- ==== Sys2Proof/Machine/Dispatch.lean ====
section
/-! DEFINITION. What each command does to everything but the queue of waiting commands: one arm per row of spec/opcode_table.json. -/

namespace Sys2Proof.Machine

/-- The effect of a command. -/
def exec (i : Instr) (s : State) : Host.Outcome State Fault Refusal :=
  match i with
  -- the pins RESET# and PFI#
  | .chipReset edge torn0 torn1 => Sys2Proof.Machine.execChipReset edge torn0 torn1 s
  | .powerFailHalt left0 left1 => Sys2Proof.Machine.execPowerFailHalt left0 left1 s
  -- the actions on the selected slot
  | .claim => Sys2Proof.Machine.execClaim s
  | .submit => Sys2Proof.Machine.execSubmit s
  | .discard => Sys2Proof.Machine.execDiscard s
  | .abort => Sys2Proof.Machine.execAbort s
  | .release => Sys2Proof.Machine.execRelease s
  | .actionCode value => Sys2Proof.Machine.execActionCode value s
  -- the part-wide bytes
  | .windowReset low => Sys2Proof.Machine.execWindowReset low s
  | .reclaimMode low => Sys2Proof.Machine.execReclaimMode low s
  | .iflagWrite value => Sys2Proof.Machine.execIflagWrite value s
  | .imaskWrite value => Sys2Proof.Machine.execImaskWrite value s
  | .lowmkWrite value => Sys2Proof.Machine.execLowmkWrite value s
  | .suslimWrite value => Sys2Proof.Machine.execSuslimWrite value s
  | .wearspWrite value => Sys2Proof.Machine.execWearspWrite value s
  | .slotselWrite value => Sys2Proof.Machine.execSlotselWrite value s
  -- the bytes of the selected slot
  | .bdataRead => Sys2Proof.Machine.execBdataRead s
  | .bdataWrite value => Sys2Proof.Machine.execBdataWrite value s
  | .bptrWrite value => Sys2Proof.Machine.execBptrWrite value s
  | .paramWrite which value => Sys2Proof.Machine.execParamWrite which value s
  | .readOnlyByteWrite which value => Sys2Proof.Machine.execReadOnlyByteWrite which value s
  -- the request engine
  | .read => Sys2Proof.Machine.execRead s
  | .write => Sys2Proof.Machine.execWrite s
  | .delete => Sys2Proof.Machine.execDelete s
  | .findNext => Sys2Proof.Machine.execFindNext s
  | .report => Sys2Proof.Machine.execReport s
  | .reclaim => Sys2Proof.Machine.execReclaim s
  | .classSet => Sys2Proof.Machine.execClassSet s
  | .classFreeze => Sys2Proof.Machine.execClassFreeze s
  | .format => Sys2Proof.Machine.execFormat s
  | .badRequest => Sys2Proof.Machine.execBadRequest s
  -- the plane controllers
  | .readRunDone plane granules => Sys2Proof.Machine.execReadRunDone plane granules s
  | .granuleProgramDone plane flaw => Sys2Proof.Machine.execGranuleProgramDone plane flaw s
  | .programTimeout plane kept => Sys2Proof.Machine.execProgramTimeout plane kept s
  | .eraseBlankCheck plane left => Sys2Proof.Machine.execEraseBlankCheck plane left s
  | .eraseTimeout plane left => Sys2Proof.Machine.execEraseTimeout plane left s
  | .suspendComplete plane => Sys2Proof.Machine.execSuspendComplete plane s
  -- the reclaim engine
  | .select => Sys2Proof.Machine.execSelect s

end Sys2Proof.Machine
end

