-- ==== Sys2Proof/Safety.lean ====
section
/-! DEFINITION. What counts as a sound state of the part, in the terms the statements use: the byte stores are in their one form, the
key index is ordered and counted, each plane's suspension stays under its limit, the clamped bytes lie in their ranges, the latched
power-fail flag agrees with the store state, the slots agree with the queue and the ACTIVE request, and a part held in reset is at its
chip-reset values. -/

namespace Sys2Proof.Machine

/-- Every cell lies in the array of 262 144 bytes (R19). -/
def flashBounded (m : List Host.Cell) : Bool := m.all (fun c => decide (c.1 < 262144))

/-- Flash holds its canonical form within the array. -/
def State.flashSound (s : State) : Bool := cellsWf Config.erasedByte s.flash && flashBounded s.flash

/-- A buffer holds its canonical form within its 256 positions (R93). -/
def bufferSound (m : List Host.Cell) : Bool := cellsWf 0 m && m.all (fun c => decide (c.1 < 256))

/-- Every slot buffer is sound. -/
def State.buffersSound (s : State) : Prop := ∀ n : SlotNo, bufferSound (s.slot n).buffer = true

/-- The entries are sorted strictly ascending by key (R78). -/
def entriesAscend : List Entry → Bool
  | [] => true
  | [_] => true
  | a :: b :: l => decide (a.key < b.key) && entriesAscend (b :: l)

/-- The key index is sound: strictly ascending by key, at most 1024 entries (R78), each of the nine live record counts the number of
entries of its class (R79). -/
def KeyIndex.Sound (x : KeyIndex) : Prop :=
  entriesAscend x.entries = true ∧ x.entries.length ≤ Config.indexCapacity ∧
    ∀ k : Fin 9, x.counts[k] = x.entries.countP (fun e => decide (countNo e.cls = k))

/-- A plane's suspension is sound (R33): the suspend count does not exceed the latched limit, the limit is one that SUSLIM can hold, and
a suspension is under way only below the limit. -/
def Plane.Sound (p : Plane) : Prop :=
  match p.erase with
  | none => True
  | some e => e.count ≤ e.limit ∧ e.limit ≤ 63 ∧ (e.cond = .suspending → e.count < e.limit)

/-- The clamped bytes lie in their ranges (R202). -/
def Window.TunablesSound (w : Window) : Prop :=
  2 ≤ w.lowmk ∧ w.lowmk ≤ 16 ∧ w.suslim ≤ 63 ∧ 1 ≤ w.wearsp ∧ w.wearsp ≤ 255

/-- The power-fail flag is latched exactly while the store is HALTED (R190). -/
def State.HaltSound (s : State) : Prop := s.halted = true ↔ s.eng.store = .halted

/-- The slots agree with the queue and with the ACTIVE request, where `a` is the slot of that request (R94, R104, R112, R16): no slot is in
the queue twice, a slot is QUEUED exactly while it is in the queue and ACTIVE exactly while the request engine has taken it, so that at most
one slot is ACTIVE, and only an ACTIVE slot is hidden. -/
structure Window.Seated (w : Window) (a : Option SlotNo) : Prop where
  nodup : w.queue.Nodup
  queued : ∀ n : SlotNo, (w.slots[n]).state = .queued ↔ n ∈ w.queue
  active : ∀ n : SlotNo, (w.slots[n]).state = .active ↔ a = some n
  hidden : ∀ n : SlotNo, (w.slots[n]).hidden = true → (w.slots[n]).state = .active

/-- The slot of the ACTIVE request. -/
def State.activeSlot (s : State) : Option SlotNo := s.eng.req.map (fun r => r.slot)

/-- While RESET# is held low, every block holds its chip-reset value (R207). -/
def State.HeldSound (s : State) : Prop := s.resetLow = true → s = State.atReset s.flash s.pending

/-- A sound state of the part. -/
structure State.Sound (s : State) : Prop where
  flash : s.flashSound = true
  buffers : s.buffersSound
  index : s.idx.Sound
  plane0 : s.pl0.Sound
  plane1 : s.pl1.Sound
  tunables : s.win.TunablesSound
  halt : s.HaltSound
  seats : s.win.Seated s.activeSlot
  held : s.HeldSound

/-! ### What the statements say of a request and of its end -/

/-- The reclaim engine is as it was, or it was idle and has started a cycle by entering SELECT (R156). -/
def Reclaim.StartedFrom (x y : Reclaim) : Prop :=
  y = x ∨ (x.phase = .idle ∧ y = { x with phase := .select, act := .select })

/-- Every part-wide byte of the window but IFLAG is as it was (section 12.1). -/
structure Window.HostKept (w v : Window) : Prop where
  sel : v.sel = w.sel
  imask : v.imask = w.imask
  fault : v.fault = w.fault
  lowmk : v.lowmk = w.lowmk
  suslim : v.suslim = w.suslim
  wearsp : v.wearsp = w.wearsp
  mode : v.mode = w.mode
  busOut : v.busOut = w.busOut

/-- Everything outside the slots, the queue, IFLAG and the ACTIVE request is as it was, flash and the waiting commands among it; the
reclaim engine may have started a cycle. -/
structure State.Kept (s t : State) : Prop where
  host : s.win.HostKept t.win
  store : t.eng.store = s.eng.store
  writeSeq : t.eng.writeSeq = s.eng.writeSeq
  corruptReads : t.eng.corruptReads = s.eng.corruptReads
  idx : t.idx = s.idx
  classes : t.classes = s.classes
  space : t.space = s.space
  rcl : s.rcl.StartedFrom t.rcl
  pl0 : t.pl0 = s.pl0
  pl1 : t.pl1 = s.pl1
  faults : t.faults = s.faults
  mnt : t.mnt = s.mnt
  halted : t.halted = s.halted
  resetLow : t.resetLow = s.resetLow
  flash : t.flash = s.flash
  agenda : t.agenda = s.agenda
  pending : t.pending = s.pending

/-- The request of slot `n` is at an end and the engine goes on (R16, R104): in a store state that takes slots the head of the queue
becomes ACTIVE and its parameters are read, and every other slot stays as it was. -/
structure State.WentOn (s t : State) (n : SlotNo) : Prop where
  queue : t.win.queue = if s.eng.store.takesSlots then s.win.queue.tail else s.win.queue
  others : ∀ m : SlotNo, m ≠ n → t.slot m =
    if s.eng.store.takesSlots ∧ s.win.queue.head? = some m then { s.slot m with state := .active } else s.slot m
  next : t.eng.req =
    if s.eng.store.takesSlots then s.win.queue.head?.map (fun m => freshRequest m (s.slot m).params s.eng.store) else none

/-- The ending step (R105) has taken place from `s`: slot `n` holds the results given over what it held, is DONE with its pointer 0, and
SLOTDONEn is raised. -/
structure State.Ended (s t : State) (n : SlotNo) (code : ResultCode) (f : ResultFields) (flags : ResultFlags) : Prop where
  slot : t.slot n = { s.slot n with state := .done, code := code, fields := f, flags := flags, ptr := 0 }
  raised : t.win.iflag = s.win.iflag ||| (IntFlag.slotDone n).mask
  onward : s.WentOn t n
  kept : s.Kept t

/-- The request `r` is ACTIVE in a slot that is not hidden, in a phase in which it holds nothing and waits for nothing. -/
structure State.Standing (s : State) (r : Request) : Prop where
  active : s.eng.req = some r
  quiet : s.agenda = []
  noHold : s.idx.hold = none
  noWaiter : s.idx.waiter = none
  visible : (s.slot r.slot).hidden = false
  notQueued : r.slot ∉ s.win.queue

/-- The request `r` stands at its taking, so that the row of its request code is due (R104, R114). -/
structure State.Due (s : State) (r : Request) : Prop extends s.Standing r where
  taken : r.phase = .taken
  unhalted : s.eng.store ≠ .halted

/-- `t` is `s` but that the reclaim engine may have started a cycle (R156). -/
def State.Becomes (s t : State) : Prop := t = { s with rcl := t.rcl } ∧ s.rcl.StartedFrom t.rcl

/-- The row of the table that carries out a request code (R205); BAD_REQUEST where the code names no request. -/
def requestRow (rq : Byte) : Instr :=
  match rq.toNat with
  | 1 => .read
  | 2 => .write
  | 3 => .delete
  | 4 => .findNext
  | 5 => .report
  | 6 => .reclaim
  | 7 => .classSet
  | 8 => .classFreeze
  | 9 => .format
  | _ => .badRequest

/-- The plane's controller is IDLE with nothing waiting and takes claims (R22). -/
def Plane.Idle (p : Plane) : Prop := p.run = none ∧ p.erase = none ∧ p.waitReq = none ∧ p.waitRec = none ∧ p.halted = false

/-- The plane with a claim's run just granted: in service, no granule programmed yet, no stop asked (R22). -/
def Plane.withRun (p : Plane) (who : Claimant) (sector : SectorNo) (first : Nat) (work : Work) : Plane :=
  { p with run := some { claim := { who := who, sector := sector, first := first, work := work }, done := 0, stop := false } }

end Sys2Proof.Machine
end

