-- ==== Sys2Proof/Certificates/Slice0/Obligations.lean ====
section
/-! DEFINITION. The statements for the provers, each a proposition about the model of the 6440. -/

section
open Sys2Proof Sys2Proof.Machine

/-! ### One step -/

/-- The command at the front of the queue is carried out on the state with the queue's rest (section 2 of 00_scope.md; the queue of
waiting commands is the model's own, log entry 5). -/
def Obligations.StepRunsFront : Prop :=
  ∀ (c : Instr) (rest : List Instr) (s : State), step { s with pending := c :: rest } = exec c { s with pending := rest }

/-- With no command waiting the part idles, and a row of the request engine with no request ACTIVE and none queued changes nothing (log
entry 5: the model's choice). -/
def Obligations.NothingDueIdles : Prop :=
  ∀ s : State, (s.pending = [] → step s = .next s) ∧
    (s.eng.req = none → s.win.queue = [] → ∀ rq : Byte, exec (requestRow rq) s = .next s)

/-! ### Actions on the selected slot (section 6.3) -/

/-- CLAIM (R97): a slot that reads FREE becomes OPEN with zero parameters, results and pointer, its buffer kept; any other records
ACTION_STATE. DISCARD (R99): a slot that reads OPEN becomes FREE; any other records ACTION_STATE. -/
def Obligations.ClaimAndDiscard : Prop :=
  ∀ s : State, s.resetLow = false →
    let refused : State := { s with win := { s.win with fault := .actionState, iflag := s.win.iflag ||| 0x40 } }
    exec .claim s = .next
      (if s.selected.state = .free ∧ s.selected.hidden = false then
        s.setSlot s.win.sel
          { state := .opened, hidden := false, params := Params.zero, code := .ok, fields := ResultFields.zero,
            flags := ResultFlags.none, buffer := s.selected.buffer, ptr := 0 }
      else refused) ∧
    exec .discard s = .next
      (if s.selected.state = .opened ∧ s.selected.hidden = false then s.setSlot s.win.sel { s.selected with state := .free }
      else refused)

/-- SUBMIT (R98). In HALTED the slot ends POWER_FAIL with its SLOTDONE flag; otherwise it joins the tail of the queue, and an engine
that is IDLE in a store state that admits slots takes the head at once. Any slot not OPEN records ACTION_STATE. -/
def Obligations.SubmitAction : Prop :=
  ∀ s : State, s.resetLow = false →
    let n := s.win.sel
    let x := s.slot n
    let queued : State := { s.setSlot n { x with state := .queued } with win :=
      { (s.setSlot n { x with state := .queued }).win with queue := s.win.queue ++ [n] } }
    (¬(x.state = .opened ∧ x.hidden = false) →
      exec .submit s = .next { s with win := { s.win with fault := .actionState, iflag := s.win.iflag ||| 0x40 } }) ∧
    (x.state = .opened → x.hidden = false → s.eng.store = .halted → exec .submit s = .next
      { s with win := { s.win with
        slots := s.win.slots.set n
          { x with state := .done, code := .powerFail, fields := ResultFields.zero, flags := ResultFlags.none, ptr := 0 }
        iflag := s.win.iflag ||| (IntFlag.slotDone n).mask } }) ∧
    (x.state = .opened → x.hidden = false → s.eng.store ≠ .halted →
      (s.eng.req ≠ none ∨ s.eng.store.takesSlots = false) → exec .submit s = .next queued) ∧
    (x.state = .opened → x.hidden = false → s.eng.req = none → s.eng.store.takesSlots = true → s.win.queue = [] →
      exec .submit s = .next
        { s with
          win := { s.win with slots := s.win.slots.set n { x with state := .active } }
          eng := { s.eng with req := some (freshRequest n x.params s.eng.store) } })

/-- RELEASE (R100): a DONE slot is FREE with its results, buffer and pointer kept, its SLOTDONE flag is cleared, and VER0 to VER3 show
the expected version again. -/
def Obligations.ReleaseAction : Prop :=
  ∀ s : State, s.resetLow = false →
    (s.selected.state = .done → s.selected.hidden = false → ∃ t, exec .release s = .next t ∧
      t = { s with win := { s.win with
        slots := s.win.slots.set s.win.sel { s.selected with state := .free }
        iflag := s.win.iflag &&& ~~~(IntFlag.slotDone s.win.sel).mask } } ∧
      t.selected.shownVersion = s.selected.params.version) ∧
    (¬(s.selected.state = .done ∧ s.selected.hidden = false) →
      exec .release s = .next { s with win := { s.win with fault := .actionState, iflag := s.win.iflag ||| 0x40 } })

/-- ABORT of a QUEUED slot (R101): it leaves the queue and ends ABORTED with zero result fields, no flags, pointer 0 and its SLOTDONE
flag; the slots behind it keep their order and move up one place, and nothing else changes. ABORT of a slot that reads FREE, OPEN or DONE
records ACTION_STATE and leaves the slot, the queue and the slot flags (R102). -/
def Obligations.AbortOfSlot : Prop :=
  ∀ s : State, s.resetLow = false →
    (s.selected.state = .queued → s.selected.hidden = false → s.win.queue.Nodup → s.win.sel ∈ s.win.queue →
      ∃ t, exec .abort s = .next t ∧
        t = { s with win := { s.win with
          slots := s.win.slots.set s.win.sel
            { s.selected with
              state := .done, code := .aborted, fields := ResultFields.zero, flags := ResultFlags.none, ptr := 0 }
          queue := t.win.queue
          iflag := s.win.iflag ||| (IntFlag.slotDone s.win.sel).mask } } ∧
        t.win.queue.Sublist s.win.queue ∧ s.win.sel ∉ t.win.queue ∧
        ∀ n ∈ s.win.queue, n ≠ s.win.sel → n ∈ t.win.queue ∧
          queueIndex s.win.queue n =
            queueIndex t.win.queue n + if queueIndex s.win.queue s.win.sel < queueIndex s.win.queue n then 1 else 0) ∧
    ((s.selected.shown = .free ∨ s.selected.shown = .opened ∨ s.selected.shown = .done) →
      exec .abort s = .next { s with win := { s.win with fault := .actionState, iflag := s.win.iflag ||| 0x40 } })

/-- ABORT of an ACTIVE request at or past its point of no return sets ABORT_LATE and changes nothing else of the request, its slot, the
store or flash (R18, R115): a FIND_NEXT or REPORT, a commit run granted, and every phase from RETIRE_OLD, RETIRE or MARK onward. A
second such ABORT changes nothing. -/
def Obligations.AbortTooLate : Prop :=
  ∀ (s : State) (r : Request), s.resetLow = false → s.selected.state = .active → s.selected.hidden = false → s.eng.req = some r →
    s.agenda = [] → s.eng.store ≠ .halted → r.aborting = false →
    ((r.phase = .taken ∧ (r.params.rq = 0x04 ∨ r.params.rq = 0x05)) ∨
      (r.phase = .commit ∧ s.pl0.waitReq = none ∧ s.pl1.waitReq = none) ∨
      r.phase = .retireOld ∨ r.phase = .retireNew ∨ r.phase = .retire ∨
      (∃ n, r.phase = .fmtReadMark n ∨ r.phase = .fmtMark n ∨ r.phase = .fmtErase n ∨ r.phase = .fmtHeader n ∨
        r.phase = .fmtReadRetire n ∨ r.phase = .fmtRetire n)) →
    ∃ t, exec .abort s = .next t ∧ (s.setReq { r with flags := { r.flags with abortLate := true } }).Becomes t

/-- ABORT of an ACTIVE request short of its point of no return (R115, R18). With no run in service it ends ABORTED with the flags already set
and no result fields: a claim that waits is withdrawn, the hold released and the waiter dropped. So end a request in CHECK, at its taking or repeated on the
clear-moving signal (R86), other than a FIND_NEXT or REPORT, a READ in TRANSFER, a write in WAIT_SPACE, in WAIT_MOVE, or in PLACE, PAYLOAD or COMMIT with its claim waiting, and
a RECLAIM in CYCLE, whose cycle goes on (R137); a write whose DESCRIPTOR claim waits gives its place back as well (R63), and a FORMAT in
STOP_RECLAIM withdraws its stop (R171). With a run in service, of TRANSFER, PLACE, DESCRIPTOR or PAYLOAD, the run is asked to stop and the
request awaits its answer (R23, R26). That a request of a code that names none is aborted at its taking is the model's reading of R115 (log
entry 18); that a write in its retry is aborted in these phases too, after its first commit run was granted and faulted, is the model's
choice (log entry 37: R115's table against R130's words); and LOOKUP after an ERASING answer and the wait behind an opening are phases of the
model's own (log entries 6 and 14). -/
def Obligations.AbortTaken : Prop :=
  ∀ (s : State) (r : Request), s.resetLow = false → s.selected.state = .active → s.selected.hidden = false → r.slot = s.win.sel →
    s.eng.req = some r → s.agenda = [] → s.eng.store ≠ .halted → r.aborting = false → r.flags.abortLate = false →
    (s.runInService .request = false → r.slot ∉ s.win.queue → s.rcl.act ≠ .heldWait → s.rcl.act ≠ .roomWait →
      let dropped : State := { s with
        pl0 := { s.pl0 with waitReq := none }
        pl1 := { s.pl1 with waitReq := none }
        idx := { s.idx with hold := none, waiter := none } }
      (r.phase = .taken ∧ r.params.rq ≠ 0x04 ∧ r.params.rq ≠ 0x05 ∨ r.phase = .transfer ∨ r.phase = .lookup ∨ r.phase = .waitSpace ∨
          r.phase = .waitMove ∨ r.phase = .placeWait ∨ (∃ n q, r.phase = .opening n q) ∨ r.phase = .payload ∨ r.phase = .cycle ∨
          r.phase = .commit ∧ (s.pl0.waitReq ≠ none ∨ s.pl1.waitReq ≠ none) →
        ∃ t, exec .abort s = .next t ∧ dropped.Ended t r.slot .aborted ResultFields.zero r.flags) ∧
      (∀ (n : SectorNo) (o : Nat), r.phase = .descriptor → r.job.place = some { sector := n, offset := o } →
        let e := s.sector n
        let fp := 24 + 8 * ((r.job.length + 7) / 8)
        ∃ t, exec .abort s = .next t ∧
          (dropped.putSector n
            (if (e.state = .hostOpen ∨ e.state = .moveOpen) ∧ e.append = o + fp then
              { e with append := o, staleBytes := e.staleBytes - fp } else e)).Ended t r.slot .aborted ResultFields.zero r.flags) ∧
      (r.phase = .stopReclaim →
        ∃ t, exec .abort s = .next t ∧
          { dropped with rcl := { s.rcl with
            stop := if s.eng.store = StoreState.readOnly ∧ s.rcl.phase ≠ ReclaimPhase.idle then .readOnly else .none } }.Ended t r.slot .aborted
              ResultFields.zero r.flags)) ∧
    (∀ (p : PlaneId) (u : Run),
      (r.phase = .transfer ∨ (∃ n q, r.phase = .opening n q) ∨ r.phase = .descriptor ∨ r.phase = .payload) →
      (s.plane p).run = some u → u.claim.who = .request →
      (∀ q v, q ≠ p → (s.plane q).run = some v → v.claim.who ≠ .request) →
      ∃ t, exec .abort s = .next t ∧
        ((s.setPlane p { s.plane p with run := some { u with stop := true } }).setReq { r with aborting := true }).Becomes t)

/-- A write to ACTION (R103, R204): the values 1 to 5 act as CLAIM, SUBMIT, DISCARD, ABORT and RELEASE; every other value, 0 among them, leaves
slots and queue and records ACTION_CODE. ACTION reads 0. That the command ACTION_CODE takes the values 1 to 5 too, each as the command of its
action, is the model's choice (log entry 23). -/
def Obligations.ActionCodeWrite : Prop :=
  ∀ (v : Byte) (s : State),
    (s.resetLow = false → (v = 0 ∨ 6 ≤ v.toNat) →
      exec (.actionCode v) s = .next { s with win := { s.win with fault := .actionCode, iflag := s.win.iflag ||| 0x40 } }) ∧
    (v = 1 → exec (.actionCode v) s = exec .claim s) ∧ (v = 2 → exec (.actionCode v) s = exec .submit s) ∧
    (v = 3 → exec (.actionCode v) s = exec .discard s) ∧ (v = 4 → exec (.actionCode v) s = exec .abort s) ∧
    (v = 5 → exec (.actionCode v) s = exec .release s) ∧ s.windowByte 0x0D = 0

/-! ### Window reset and the part-wide bytes -/

/-- A window reset with no request ACTIVE (R111): every slot becomes FREE with its parameters, results and buffer kept, and the pointer
of one that was not FREE already is 0; the queue is empty, IFLAG and the fault code are 0, bit 0 is the reclaim mode, and nothing else changes
but that a reclaim cycle may start. -/
def Obligations.WindowResetIdle : Prop :=
  ∀ (low : BitVec 7) (s : State), s.resetLow = false → s.eng.req = none → s.agenda = [] → (∀ n, (s.slot n).state ≠ .active) →
    ∃ t, exec (.windowReset low) s = .next t ∧
      (∀ n, t.slot n = { s.slot n with state := .free, ptr := (t.slot n).ptr } ∧
        ((s.slot n).state ≠ .free → (t.slot n).ptr = 0)) ∧
      t.win.queue = [] ∧ t.win.iflag = 0 ∧ t.win.fault = .none ∧
      t.win.mode = (if low.getLsbD 0 then .onRequest else .auto) ∧
      t.win.sel = s.win.sel ∧ t.win.imask = s.win.imask ∧ t.win.lowmk = s.win.lowmk ∧ t.win.suslim = s.win.suslim ∧
      t.win.wearsp = s.win.wearsp ∧ t.win.busOut = s.win.busOut ∧
      s.rcl.StartedFrom t.rcl ∧ t = { s with win := t.win, rcl := t.rcl }

/-- A window reset that meets an ACTIVE request at or past its point of no return hides its slot, sets ABORT_LATE and lets it run (R111, R112,
R115): a FIND_NEXT or REPORT at its taking, a commit run granted, and every phase from RETIRE_OLD, RETIRE or MARK onward. -/
def Obligations.WindowResetHides : Prop :=
  ∀ (low : BitVec 7) (s : State) (r : Request), s.resetLow = false → s.eng.req = some r → s.agenda = [] →
    (s.slot r.slot).state = .active → s.eng.store ≠ .halted → r.aborting = false →
    ((r.phase = .taken ∧ (r.params.rq = 0x04 ∨ r.params.rq = 0x05)) ∨
      (r.phase = .commit ∧ s.pl0.waitReq = none ∧ s.pl1.waitReq = none) ∨
      r.phase = .retireOld ∨ r.phase = .retireNew ∨ r.phase = .retire ∨
      (∃ n, r.phase = .fmtReadMark n ∨ r.phase = .fmtMark n ∨ r.phase = .fmtErase n ∨ r.phase = .fmtHeader n ∨
        r.phase = .fmtReadRetire n ∨ r.phase = .fmtRetire n)) →
    ∃ t, exec (.windowReset low) s = .next t ∧
      t.slot r.slot = { s.slot r.slot with hidden := true } ∧ (t.slot r.slot).shown = .free ∧
      t.eng.req = some { r with flags := { r.flags with abortLate := true } } ∧
      (∀ n, (s.slot n).state ≠ .active → (t.slot n).state = .free) ∧ t.win.queue = [] ∧ t.win.iflag = 0 ∧
      t.flash = s.flash ∧ t.idx = s.idx ∧ t.space = s.space ∧ t.pl0 = s.pl0 ∧ t.pl1 = s.pl1

/-- A write of CTL with bit 7 clear stores bit 0 as the reclaim mode and tests the start conditions (R199, R155, R156): SELECT is entered where
the reclaim engine is IDLE in READY with no FORMAT stop held and a condition holds, and nothing else changes otherwise. In either mode a
sector that is ERASE_PENDING, a write in WAIT_SPACE and a RECLAIM in CYCLE are conditions; in AUTO, with the no-victim latch clear, so are
a BLANK count at or below LOWMK and a wear spread above WEARSP times 16 (R158). -/
def Obligations.ReclaimModeWrite : Prop :=
  ∀ (low : BitVec 7) (s : State), s.resetLow = false →
    let m : ReclaimMode := if low.getLsbD 0 then .onRequest else .auto
    let w : State := { s with win := { s.win with mode := m } }
    let spread : Prop := ∃ a b : SectorNo, (s.sector a).state ≠ .retired ∧ (s.sector b).state = .full ∧
      16 * s.win.wearsp + (s.sector b).eraseCount < (s.sector a).eraseCount
    let condition : Prop := (∃ n, (s.sector n).state = .erasePending) ∨
      (∃ r, s.eng.req = some r ∧ (r.phase = .waitSpace ∨ r.phase = .cycle)) ∨
      (m = .auto ∧ s.rcl.noVictim = false ∧ (s.space.blankCount ≤ s.win.lowmk ∨ spread))
    (s.rcl.phase = .idle → s.eng.store = .ready → s.rcl.stop ≠ .format → condition →
      exec (.reclaimMode low) s = .next { w with rcl := { s.rcl with phase := .select, act := .select } }) ∧
    (¬(s.rcl.phase = .idle ∧ s.eng.store = .ready ∧ s.rcl.stop ≠ .format ∧ condition) → exec (.reclaimMode low) s = .next w)

/-- IFLAG, IMASK and INT# (R109, R110): a write of IFLAG clears the flags written as 1 and leaves the others, IMASK is stored whole, and
INT# is asserted exactly when some flag set in IFLAG is enabled in IMASK. -/
def Obligations.InterruptBytes : Prop :=
  ∀ (v : Byte) (s : State), s.resetLow = false →
    (∃ t, exec (.iflagWrite v) s = .next t ∧ (∀ f : IntFlag, t.win.flag f = (s.win.flag f && !v.getLsbD f.bit)) ∧
      t = { s with win := { s.win with iflag := t.win.iflag } }) ∧
    exec (.imaskWrite v) s = .next { s with win := { s.win with imask := v } } ∧
    (s.intAsserted = true ↔ ∃ f : IntFlag, s.win.flag f = true ∧ s.win.imask.getLsbD f.bit = true)

/-- The clamped bytes (R202, R33, R158) and the bytes marked read (R198). The value stored is the one written where it lies in the range and
the nearer end otherwise; a write of LOWMK or WEARSP may start a reclaim cycle (R156), and one of WEARSP clears the no-victim latch (R161) but
in HALTED, where it has no effect beside the value (R195, R172). A write to a byte marked read is ignored and records no fault. -/
def Obligations.ClampedAndReadOnlyWrites : Prop :=
  ∀ (v : Byte) (s : State), s.resetLow = false →
    (∃ t, exec (.lowmkWrite v) s = .next t ∧
      { s with win := { s.win with lowmk := max 2 (min 16 v.toNat) } }.Becomes t) ∧
    exec (.suslimWrite v) s = .next { s with win := { s.win with suslim := min 63 v.toNat } } ∧
    (∃ t, exec (.wearspWrite v) s = .next t ∧
      { s with
        win := { s.win with wearsp := max 1 v.toNat }
        rcl := { s.rcl with noVictim := if s.eng.store = StoreState.halted then s.rcl.noVictim else false } }.Becomes t) ∧
    ∀ b : ReadOnlyByte, exec (.readOnlyByteWrite b v) s = .next s

/-- SLOTSEL (R95): 0 to 3 selects, 4 to 255 records SELECT_RANGE and leaves the selection. -/
def Obligations.SlotSelectWrite : Prop :=
  ∀ (v : Byte) (s : State), s.resetLow = false →
    (∀ n : SlotNo, v.toNat = n.val → exec (.slotselWrite v) s = .next { s with win := { s.win with sel := n } }) ∧
    (4 ≤ v.toNat →
      exec (.slotselWrite v) s = .next { s with win := { s.win with fault := .selectRange, iflag := s.win.iflag ||| 0x40 } })

/-! ### The bytes of the selected slot -/

/-- BDATA and BPTR (R106). In FREE, OPEN and DONE a read returns the byte at the pointer, a write stores there, both advance the pointer by
1 and wrap from 255 to 0, and a write of BPTR takes every value. In QUEUED and ACTIVE, or hidden (R112), a read returns 0x00, writes are
dropped, the pointer stays, and BUFFER_STATE is recorded. -/
def Obligations.BufferAccess : Prop :=
  ∀ (v : Byte) (s : State), s.resetLow = false →
    (s.selected.hidden = false → (s.selected.state = .free ∨ s.selected.state = .opened ∨ s.selected.state = .done) →
      exec .bdataRead s = .next
        { s with win := { s.win with
          slots := s.win.slots.set s.win.sel { s.selected with ptr := s.selected.ptr + 1 }
          busOut := s.selected.bufferByte s.selected.ptr.toNat } } ∧
      (∃ t, exec (.bdataWrite v) s = .next t ∧
        t.selected = { s.selected with ptr := s.selected.ptr + 1, buffer := t.selected.buffer } ∧
        (∀ i, t.selected.bufferByte i = if i = s.selected.ptr.toNat then v else s.selected.bufferByte i) ∧
        t = { s with win := { s.win with slots := t.win.slots } } ∧ ∀ n, n ≠ s.win.sel → t.slot n = s.slot n) ∧
      exec (.bptrWrite v) s = .next (s.setSlot s.win.sel { s.selected with ptr := v })) ∧
    ((s.selected.hidden = true ∨ s.selected.state = .queued ∨ s.selected.state = .active) →
      let f : State := { s with win := { s.win with fault := .bufferState, iflag := s.win.iflag ||| 0x40 } }
      exec .bdataRead s = .next { f with win := { f.win with busOut := 0 } } ∧
        exec (.bdataWrite v) s = .next f ∧ exec (.bptrWrite v) s = .next f)

/-- Bytes written through BDATA are read back through BDATA (R106): after BPTR is set to `p`, the bytes `bs` written, BPTR set to `p`
again and as many reads made, the last read drives the last byte written, for up to 256 bytes and across the wrap. -/
def Obligations.BufferRoundTrip : Prop :=
  ∀ (p : Byte) (bs : List Byte) (s : State), s.resetLow = false → s.selected.hidden = false → s.selected.state = .opened →
    bs.length ≤ 256 →
    ∀ i : Fin bs.length, ∃ t : State,
      Sys2Proof.core.run (bs.length + i.val + 3)
        { s with pending := .bptrWrite p :: (bs.map .bdataWrite ++ .bptrWrite p :: List.replicate (i.val + 1) .bdataRead) } =
          .next t ∧ t.win.busOut = bs[i]

/-- A parameter byte (R96): stored as written in OPEN, whatever its value, and otherwise dropped with PARAM_STATE. -/
def Obligations.ParameterWrite : Prop :=
  ∀ (b : ParamByte) (v : Byte) (s : State), s.resetLow = false →
    (s.selected.state = .opened → s.selected.hidden = false → ∃ t, exec (.paramWrite b v) s = .next t ∧
      t.selected = { s.selected with params := t.selected.params } ∧
      (∀ c, t.selected.params.get c = if c = b then v else s.selected.params.get c) ∧
      t = { s with win := { s.win with slots := t.win.slots } } ∧ ∀ n, n ≠ s.win.sel → t.slot n = s.slot n) ∧
    (¬(s.selected.state = .opened ∧ s.selected.hidden = false) →
      exec (.paramWrite b v) s =
        .next { s with win := { s.win with fault := .paramState, iflag := s.win.iflag ||| 0x40 } })

/-! ### Requests at their taking (chapter 7) -/

/-- BAD_REQUEST (R15): a code other than 0x01 to 0x09, or IF_VERSION together with IF_ABSENT, ends the request at its first check. -/
def Obligations.BadRequestEnds : Prop :=
  ∀ (s : State) (r : Request), s.Due r →
    (r.params.rq = 0 ∨ 0x0A ≤ r.params.rq.toNat ∨
      r.params.opt.getLsbD 0 = true ∧ r.params.opt.getLsbD 1 = true) →
    ∃ t, exec .badRequest s = .next t ∧ s.Ended t r.slot .badRequest ResultFields.zero r.flags

/-- The end of a request whose slot a window reset has hidden (R112): no result is written and no flag raised, the slot becomes FREE with
its pointer 0 and its parameters and result fields as they were, and the engine goes on to the head of the queue. So end a REPORT, whose 40
bytes stand in the buffer, and a FIND_NEXT that were hidden at their taking; and a DELETE whose retire run verifies, which has removed its
key. -/
def Obligations.HiddenRequestEnds : Prop :=
  ∀ (s : State) (r : Request), s.eng.req = some r → s.agenda = [] → s.idx.waiter = none → r.slot ∉ s.win.queue →
    (s.slot r.slot).hidden = true →
    (r.phase = .taken → s.eng.store ≠ .halted → s.idx.hold = none → ¬(r.params.opt.getLsbD 0 = true ∧ r.params.opt.getLsbD 1 = true) →
      (r.params.rq = 0x05 → ∃ (t : State) (b : List Host.Cell), exec .report s = .next t ∧
        t.slot r.slot = { s.slot r.slot with state := .free, hidden := false, ptr := 0, buffer := b } ∧
        (∀ i, cellGet 0 b i = if i < 40 then s.reportBytes.getD i 0 else (s.slot r.slot).bufferByte i) ∧
        t.win.iflag = s.win.iflag ∧ s.WentOn t r.slot ∧ s.Kept t) ∧
      (r.params.rq = 0x04 → ∃ t, exec .findNext s = .next t ∧
        t.slot r.slot = { s.slot r.slot with state := .free, hidden := false, ptr := 0 } ∧
        t.win.iflag = s.win.iflag ∧ s.WentOn t r.slot ∧ s.Kept t)) ∧
    (∀ (e : Entry) (p : PlaneId) (u : Run), r.phase = .retire → r.aborting = false → s.eng.store = .ready → r.entry = some e →
      s.idx.lookup e.key = some e → s.idx.hold = some e.key → s.rcl.act ≠ .heldWait →
      u = { claim := { who := .request, sector := e.place.sector, first := e.place.offset / 8 + 2,
                       work := .program [0, 0, 0, 0, 0, 0, 0, 0] .notErased }
            done := 0, stop := false } →
      e.place.offset / 8 + 2 < 512 → (s.plane p).run = some u → ({ s.plane p with run := none } : Plane).Idle →
      ∃ t, exec (.granuleProgramDone p none) s = .next t ∧
        t.slot r.slot = { s.slot r.slot with state := .free, hidden := false, ptr := 0 } ∧ t.win.iflag = s.win.iflag ∧
        (∀ k, t.idx.lookup k = if k = e.key then none else s.idx.lookup k) ∧ t.idx.hold = none ∧ s.WentOn t r.slot)

/-- Admission by the store state at the taking (R15, R9, R11): in UNFORMATTED every request but REPORT and FORMAT ends NOT_READY, and in
READ_ONLY the requests that change the store, and RECLAIM, end READ_ONLY. -/
def Obligations.Admission : Prop :=
  ∀ (s : State) (r : Request), s.Due r → ¬(r.params.opt.getLsbD 0 = true ∧ r.params.opt.getLsbD 1 = true) →
    (r.admitted = .unformatted → r.params.rq ∈ ([0x01, 0x02, 0x03, 0x04, 0x06, 0x07, 0x08] : List Byte) →
      ∃ t, exec (requestRow r.params.rq) s = .next t ∧ s.Ended t r.slot .notReady ResultFields.zero r.flags) ∧
    (r.admitted = .readOnly → r.params.rq ∈ ([0x02, 0x03, 0x06, 0x07, 0x08] : List Byte) →
      ∃ t, exec (requestRow r.params.rq) s = .next t ∧ s.Ended t r.slot .readOnly ResultFields.zero r.flags)

/-- READ at its taking (R116, R117): KEY_INVALID, NOT_FOUND, or one read run over the record's whole footprint on the plane of its
sector, granted at once where that plane is idle. -/
def Obligations.ReadTaken : Prop :=
  ∀ (s : State) (r : Request), s.Due r → r.params.rq = 0x01 →
    ¬(r.params.opt.getLsbD 0 = true ∧ r.params.opt.getLsbD 1 = true) → r.admitted ≠ .unformatted →
    ((r.params.key = 0 ∨ 0xFF08 ≤ r.params.key) →
      ∃ t, exec .read s = .next t ∧ s.Ended t r.slot .keyInvalid ResultFields.zero r.flags) ∧
    (1 ≤ r.params.key → r.params.key ≤ 0xFF07 → (∀ e ∈ s.idx.entries, e.key ≠ r.params.key) →
      ∃ t, exec .read s = .next t ∧ s.Ended t r.slot .notFound ResultFields.zero r.flags) ∧
    (∀ e : Entry, 1 ≤ r.params.key → r.params.key ≤ 0xFF07 → s.idx.lookup r.params.key = some e →
      (s.plane (planeOf e.place.sector)).Idle →
      ∃ t, exec .read s = .next t ∧
        ((s.setPlane (planeOf e.place.sector) ((s.plane (planeOf e.place.sector)).withRun .request e.place.sector
          (e.place.offset / 8) (.read (3 + (e.length + 7) / 8)))).setReq
            { r with phase := .transfer, entry := some e }).Becomes t)

/-- The end of a READ's run with all its bytes (R117, R118). The payload stands in buffer positions 0 to length − 1 and the rest of the
buffer is as it was; a record that passes the check of R55 ends the READ OK and one that fails ends it CORRUPT, counted, both with the
entry's length, key, class and version as result. Flash and the index are untouched. The entry is of a length that the index takes (R78). -/
def Obligations.ReadRunCompletes : Prop :=
  ∀ (s : State) (r : Request) (e : Entry) (p : PlaneId) (u : Run) (n : Nat), s.Standing r → s.eng.store ≠ .halted →
    r.phase = .transfer → r.entry = some e → r.aborting = false →
    u.claim = { who := .request, sector := e.place.sector, first := e.place.offset / 8,
                work := .read (3 + (e.length + 7) / 8) } →
    u.stop = false → e.length ≤ 240 → e.place.offset / 8 + 3 + (e.length + 7) / 8 ≤ 512 →
    (s.plane p).run = some u → ({ s.plane p with run := none } : Plane).Idle →
    let data := flashRead s.flash e.place.sector (8 * (e.place.offset / 8)) (8 * (3 + (e.length + 7) / 8))
    let f : ResultFields := { length := e.length, key := e.key, cls := e.cls, version := e.version }
    ∃ (t : State) (b : List Host.Cell), exec (.readRunDone p n) s = .next t ∧
      (∀ i, cellGet 0 b i = if i < e.length then
          flashByte s.flash e.place.sector (8 * (e.place.offset / 8) + 24 + i) else (s.slot r.slot).bufferByte i) ∧
      let base := (s.setPlane p { s.plane p with run := none }).setSlot r.slot { s.slot r.slot with buffer := b }
      if recordPasses data e then base.Ended t r.slot .ok f r.flags
      else
        { base with eng := { s.eng with
          corruptReads := if s.eng.corruptReads < 65535 then s.eng.corruptReads + 1 else s.eng.corruptReads } }.Ended
          t r.slot .corrupt f r.flags

/-- The refusals of WRITE in their order (R121, R122, R145): the first test that fails ends the request with its code; VERSION_MISMATCH and
EXISTS carry the fields of the key's entry. An entry under the moving mark puts the WRITE in WAIT_MOVE with WAITED. -/
def Obligations.WriteRefusals : Prop :=
  ∀ (s : State) (r : Request), s.Due r → r.params.rq = 0x02 → r.admitted = .ready →
    ¬(r.params.opt.getLsbD 0 = true ∧ r.params.opt.getLsbD 1 = true) →
    let k := r.params.key
    let c := r.params.cls.toNat
    let old := s.idx.lookup k
    let policy : Nat → Policy := fun c => if h : c < 8 then (s.classes[c]).policy else .rewritable
    let quota : Nat → Nat := fun c => if h : c < 8 then (s.classes[c]).quota else 0
    let enters : Bool := old.all (fun e => e.cls != c)
    let refusal : Option (ResultCode × ResultFields) :=
      if 0xFF00 ≤ k ∧ k ≤ 0xFF07 then some (.keyReserved, ResultFields.zero)
      else if k = 0 ∨ 0xFF08 ≤ k then some (.keyInvalid, ResultFields.zero)
      else if 7 < c then some (.classInvalid, ResultFields.zero)
      else if 240 < r.params.len.toNat then some (.lengthInvalid, ResultFields.zero)
      else if r.params.opt.getLsbD 0 = true ∧ old = none then some (.notFound, ResultFields.zero)
      else if r.params.opt.getLsbD 0 = true ∧ old.any (fun e => e.version != r.params.version) then
        old.map (fun e => (.versionMismatch, { length := e.length, key := e.key, cls := e.cls, version := e.version }))
      else if r.params.opt.getLsbD 1 = true ∧ old ≠ none then
        old.map (fun e => (.exists_, { length := e.length, key := e.key, cls := e.cls, version := e.version }))
      else if old.any (fun e => policy e.cls != .rewritable) then some (.policyRefused, ResultFields.zero)
      else if enters ∧ policy c = .frozen then some (.policyRefused, ResultFields.zero)
      else if enters ∧ quota c ≠ 0 ∧ quota c ≤ s.idx.count c then some (.quotaExceeded, ResultFields.zero)
      else if old = none ∧ 1024 ≤ s.idx.entries.length then some (.indexFull, ResultFields.zero)
      else none
    (∀ code f, refusal = some (code, f) → ∃ t, exec .write s = .next t ∧ s.Ended t r.slot code f r.flags) ∧
    (refusal = none → old.any (fun e => e.moving) = true →
      ∃ t, exec .write s = .next t ∧
        ({ s with idx := { s.idx with waiter := some k } }.setReq
          { r with phase := .waitMove, flags := { r.flags with waited := true }, job := { r.job with place := none } }).Becomes t)

/-- A WRITE that passes its checks and finds room in HOST_OPEN (R121, R123, R63, R84, R125): the record is placed at the sector's append
offset with its footprint counted stale, the key is held, a version is taken from the write sequence counter, and the descriptor granule
goes as a one-granule EXACT run to the plane of the sector, granted at once where that plane is idle. No slot, no entry of the index and
no byte of flash changes. -/
def Obligations.WriteProgramsDescriptor : Prop :=
  ∀ (s : State) (r : Request) (n : SectorNo), s.Due r → r.params.rq = 0x02 → r.admitted = .ready → s.eng.store = .ready →
    r.job.faults = 0 → 1 ≤ r.params.key → r.params.key ≤ 0xFEFF → r.params.cls.toNat ≤ 7 → r.params.len.toNat ≤ 240 →
    r.params.opt.getLsbD 0 = false → r.params.opt.getLsbD 1 = false →
    (∀ c : Fin 8, s.classes[c] = ClassEntry.default) →
    (∀ e, s.idx.lookup r.params.key = some e → e.moving = false ∧ e.cls ≤ 7) →
    (s.idx.lookup r.params.key = none → s.idx.entries.length < 1024) →
    s.space.findState .hostOpen = some n → (s.sector n).append + 24 + 8 * ((r.params.len.toNat + 7) / 8) ≤ 4096 →
    s.eng.writeSeq < 4294967295 → (s.plane (planeOf n)).Idle →
    let fp := 24 + 8 * ((r.params.len.toNat + 7) / 8)
    let e := s.sector n
    let job : WriteJob :=
      { key := r.params.key, cls := r.params.cls.toNat, length := r.params.len.toNat,
        payload := (s.slot r.slot).bufferHead r.params.len.toNat, place := some { sector := n, offset := e.append },
        version := s.eng.writeSeq, faults := 0 }
    let granule := toBytes r.params.key 2 ++ [r.params.cls, r.params.len] ++ toBytes s.eng.writeSeq 4
    let placed := (s.putSector n { e with append := e.append + fp, staleBytes := e.staleBytes + fp }).setPlane (planeOf n)
      ((s.plane (planeOf n)).withRun .request n (e.append / 8) (.program granule .exact))
    ∃ t, exec .write s = .next t ∧
      { placed with
        idx := { s.idx with hold := some r.params.key }
        eng := { s.eng with
          writeSeq := s.eng.writeSeq + 1
          req := some { r with phase := .descriptor, entry := s.idx.lookup r.params.key, job := job } } }.Becomes t

/-- DELETE at its taking (R131, R84, R132): its refusals in their order, and otherwise the change hold and the retire run of the key's
record, one granule of zeros in NOT_ERASED mode at the record's retire granule. -/
def Obligations.DeleteTaken : Prop :=
  ∀ (s : State) (r : Request), s.Due r → r.params.rq = 0x03 → r.admitted = .ready → s.eng.store = .ready →
    ¬(r.params.opt.getLsbD 0 = true ∧ r.params.opt.getLsbD 1 = true) →
    let k := r.params.key
    let old := s.idx.lookup k
    let policy : Nat → Policy := fun c => if h : c < 8 then (s.classes[c]).policy else .rewritable
    let refusal : Option (ResultCode × ResultFields) :=
      if 0xFF00 ≤ k ∧ k ≤ 0xFF07 then some (.keyReserved, ResultFields.zero)
      else if k = 0 ∨ 0xFF08 ≤ k then some (.keyInvalid, ResultFields.zero)
      else if old = none then some (.notFound, ResultFields.zero)
      else if r.params.opt.getLsbD 0 = true ∧ old.any (fun e => e.version != r.params.version) then
        old.map (fun e => (.versionMismatch, { length := e.length, key := e.key, cls := e.cls, version := e.version }))
      else if old.any (fun e => policy e.cls != .rewritable) then some (.policyRefused, ResultFields.zero)
      else none
    (∀ code f, refusal = some (code, f) → ∃ t, exec .delete s = .next t ∧ s.Ended t r.slot code f r.flags) ∧
    (∀ e, refusal = none → old = some e → e.moving = false → (s.plane (planeOf e.place.sector)).Idle →
      ∃ t, exec .delete s = .next t ∧
        ({ s.setPlane (planeOf e.place.sector) ((s.plane (planeOf e.place.sector)).withRun .request e.place.sector
            (e.place.offset / 8 + 2) (.program [0, 0, 0, 0, 0, 0, 0, 0] .notErased)) with
          idx := { s.idx with hold := some k } }.setReq { r with phase := .retire, entry := some e }).Becomes t) ∧
    (∀ e, refusal = none → old = some e → e.moving = true →
      ∃ t, exec .delete s = .next t ∧
        ({ s with idx := { s.idx with waiter := some k } }.setReq
          { r with phase := .waitMove, flags := { r.flags with waited := true }, job := { r.job with place := none } }).Becomes t)

/-- FIND_NEXT (R133): KEY_INVALID for a start key from 0xFF08 upward; otherwise OK with the length, key, class and version of the
successor, or END where there is none. No buffer byte is written and no flash read. -/
def Obligations.FindNextEnds : Prop :=
  ∀ (s : State) (r : Request), s.Due r → r.params.rq = 0x04 →
    ¬(r.params.opt.getLsbD 0 = true ∧ r.params.opt.getLsbD 1 = true) → r.admitted ≠ .unformatted →
    ∃ t, exec .findNext s = .next t ∧
      (0xFF08 ≤ r.params.key → s.Ended t r.slot .keyInvalid ResultFields.zero r.flags) ∧
      (r.params.key ≤ 0xFF07 →
        (∀ e, s.idx.successor r.params.key r.params.cls (r.params.opt.getLsbD 2) = some e →
          s.Ended t r.slot .ok { length := e.length, key := e.key, cls := e.cls, version := e.version } r.flags) ∧
        (s.idx.successor r.params.key r.params.cls (r.params.opt.getLsbD 2) = none →
          s.Ended t r.slot .ended ResultFields.zero r.flags))

/-- REPORT (R134, R206): buffer positions 0 to 39 take the figures, multi-byte fields least significant byte first, the rest of the buffer
is as it was, and the request ends OK with result length 40. -/
def Obligations.ReportFills : Prop :=
  ∀ (s : State) (r : Request), s.Due r → r.params.rq = 0x05 →
    ¬(r.params.opt.getLsbD 0 = true ∧ r.params.opt.getLsbD 1 = true) →
    ∃ (t : State) (b : List Host.Cell), exec .report s = .next t ∧
      (s.setSlot r.slot { s.slot r.slot with buffer := b }).Ended t r.slot .ok { ResultFields.zero with length := 40 } r.flags ∧
      (∀ i, 40 ≤ i → cellGet 0 b i = (s.slot r.slot).bufferByte i) ∧
      let field : Nat → Nat → Nat := fun o k => ofBytes (cellRead 0 b o k)
      field 0 1 = s.eng.store.code ∧ field 1 1 = s.space.blankCount ∧ field 2 1 = s.space.countState .retired ∧
      field 3 1 = s.space.countState .erasePending ∧ field 4 2 = s.space.gen % 65536 ∧
      field 6 2 = s.idx.userCount % 65536 ∧ field 8 2 = s.idx.count 15 % 65536 ∧
      field 10 3 = s.space.liveTotal % 16777216 ∧ field 13 3 = s.space.staleTotal % 16777216 ∧
      field 16 3 = s.space.minErase % 16777216 ∧ field 19 3 = s.space.maxErase % 16777216 ∧
      field 22 4 = s.eng.writeSeq % 4294967296 ∧ field 26 2 = s.eng.corruptReads % 65536 ∧
      field 28 2 = s.faults.program % 65536 ∧ field 30 2 = s.faults.erase % 65536 ∧
      field 32 2 = s.mnt.findings.incomplete % 65536 ∧ field 34 2 = s.mnt.findings.duplicates % 65536 ∧
      field 36 2 = s.mnt.findings.failingCrc % 65536 ∧ field 38 1 = s.mnt.findings.chainsBroken % 256 ∧
      field 39 1 = s.mnt.findings.estimated % 256

/-- RECLAIM in READY (R136): the request enters CYCLE, and a reclaim engine that is IDLE with no FORMAT stop held starts a cycle in either
reclaim mode. A cycle already running is not started anew. -/
def Obligations.ReclaimEntersCycle : Prop :=
  ∀ (s : State) (r : Request), s.Due r → r.params.rq = 0x06 → r.admitted = .ready → s.eng.store = .ready →
    ¬(r.params.opt.getLsbD 0 = true ∧ r.params.opt.getLsbD 1 = true) →
    exec .reclaim s = .next
      { s with
        eng := { s.eng with req := some { r with phase := .cycle } }
        rcl := if s.rcl.phase = .idle ∧ s.rcl.stop ≠ .format then { s.rcl with phase := .select, act := .select } else s.rcl }

/-- CLASS_SET and CLASS_FREEZE at their taking (R150, R151, R138): their refusals in their order. -/
def Obligations.ClassRefusals : Prop :=
  ∀ (s : State) (r : Request), s.Due r → r.admitted = .ready →
    ¬(r.params.opt.getLsbD 0 = true ∧ r.params.opt.getLsbD 1 = true) →
    let c := r.params.cls.toNat
    let now : ClassEntry := if h : c < 8 then s.classes[c] else ClassEntry.default
    let code := ((s.slot r.slot).bufferByte 0).toNat
    let quota := ((s.slot r.slot).bufferByte 1).toNat + 256 * ((s.slot r.slot).bufferByte 2).toNat
    let permitted : Bool := match now.policy with
      | .rewritable => code == 0 || code == 1
      | .writeOnce => code == 1
      | .frozen => false
    let full : Bool := !now.present && decide (1024 ≤ s.idx.entries.length)
    let setRefusal : Option ResultCode :=
      if 7 < c then some .classInvalid
      else if !permitted then some .policyRefused
      else if 1024 < quota ∨ (quota ≠ 0 ∧ quota < s.idx.count c) then some .quotaExceeded
      else if full then some .indexFull
      else none
    let freezeRefusal : Option ResultCode :=
      if 7 < c then some .classInvalid
      else if now.policy = .frozen then some .policyRefused
      else if full then some .indexFull
      else none
    (r.params.rq = 0x07 → ∀ x, setRefusal = some x →
      ∃ t, exec .classSet s = .next t ∧ s.Ended t r.slot x ResultFields.zero r.flags) ∧
    (r.params.rq = 0x08 → ∀ x, freezeRefusal = some x →
      ∃ t, exec .classFreeze s = .next t ∧ s.Ended t r.slot x ResultFields.zero r.flags)

/-- A CLASS_SET or CLASS_FREEZE that passes its checks and finds room in HOST_OPEN follows the WRITE phases (R138, R149): the descriptor of
the system record with key 0xFF00 plus the class, class 15 and length 3 is programmed as a WRITE's is, and its payload is the three bytes
of the buffer, or policy code 2 with the class's present quota. -/
def Obligations.ClassRequestProgramsDescriptor : Prop :=
  ∀ (s : State) (r : Request) (n : SectorNo) (freeze : Bool), s.Due r → r.params.rq = (if freeze then 0x08 else 0x07) →
    r.admitted = .ready → s.eng.store = .ready → r.job.faults = 0 →
    ¬(r.params.opt.getLsbD 0 = true ∧ r.params.opt.getLsbD 1 = true) → (hc : r.params.cls.toNat < 8) →
    let c := r.params.cls.toNat
    let now := s.classes[c]
    let b0 := (s.slot r.slot).bufferByte 0
    let quota := ((s.slot r.slot).bufferByte 1).toNat + 256 * ((s.slot r.slot).bufferByte 2).toNat
    now.policy ≠ .frozen →
    (freeze = false → b0.toNat ≤ 1 ∧ (now.policy = .writeOnce → b0.toNat = 1) ∧ quota ≤ 1024 ∧
      (quota = 0 ∨ s.idx.count c ≤ quota)) →
    (now.present = false → s.idx.entries.length < 1024) →
    (∀ e, s.idx.lookup (0xFF00 + c) = some e → e.moving = false) →
    s.space.findState .hostOpen = some n → (s.sector n).append + 32 ≤ 4096 → s.eng.writeSeq < 4294967295 →
    (s.plane (planeOf n)).Idle →
    let e := s.sector n
    let job : WriteJob :=
      { key := 0xFF00 + c, cls := 15, length := 3,
        payload := if freeze then 2 :: toBytes now.quota 2 else (s.slot r.slot).bufferHead 3,
        place := some { sector := n, offset := e.append }, version := s.eng.writeSeq, faults := 0 }
    let granule := toBytes (0xFF00 + c) 2 ++ [15, 3] ++ toBytes s.eng.writeSeq 4
    let placed := (s.putSector n { e with append := e.append + 32, staleBytes := e.staleBytes + 32 }).setPlane (planeOf n)
      ((s.plane (planeOf n)).withRun .request n (e.append / 8) (.program granule .exact))
    ∃ t, exec (if freeze then .classFreeze else .classSet) s = .next t ∧
      { placed with
        idx := { s.idx with hold := some (0xFF00 + c) }
        eng := { s.eng with
          writeSeq := s.eng.writeSeq + 1
          req := some { r with phase := .descriptor, entry := s.idx.lookup (0xFF00 + c), job := job } } }.Becomes t

/-- FORMAT with the reclaim engine IDLE (R139, R140, R141). At generation 65535 it ends FORMAT_LIMIT. Otherwise MARK and the entry to ERASE
are one step: every sector not RETIRED is ERASE_PENDING, but that the lowest of them is already ERASING with the reading of its erase mark
granule claimed; the index and its counts are empty, the class table is at its defaults, the generation is one higher, and the store is
FORMATTING with STATE_CHG raised. The write sequence counter, the sector sequence counter, the corrupt-read count, the mount findings and
flash are not changed. -/
def Obligations.FormatTaken : Prop :=
  ∀ (s : State) (r : Request), s.Due r → r.params.rq = 0x09 →
    ¬(r.params.opt.getLsbD 0 = true ∧ r.params.opt.getLsbD 1 = true) →
    (s.space.gen = 65535 → ∃ t, exec .format s = .next t ∧ s.Ended t r.slot .formatLimit ResultFields.zero r.flags) ∧
    (s.space.gen ≠ 65535 → s.rcl.phase = .idle → s.eng.store ≠ .formatting →
      ∀ n : SectorNo, (s.sector n).state ≠ .retired → (∀ m, m < n → (s.sector m).state = .retired) →
        (s.sector n).eraseCount < 100000 → (s.plane (planeOf n)).Idle →
        ∃ t, exec .format s = .next t ∧
          (∀ m, (s.sector m).state = .retired → t.sector m = s.sector m) ∧
          (∀ m, (s.sector m).state ≠ .retired → t.sector m =
            { s.sector m with
              state := if m = n then .erasing else .erasePending
              seq := none, append := 64, liveCount := 0, liveBytes := 0, staleBytes := 0 }) ∧
          t.idx = KeyIndex.reset ∧ (∀ c : Fin 8, t.classes[c] = ClassEntry.default) ∧
          t.space.gen = s.space.gen + 1 ∧ t.eng.store = .formatting ∧ t.win.flag .stateChg = true ∧
          t.plane (planeOf n) = (s.plane (planeOf n)).withRun .request n 3 (.read 1) ∧
          t.eng.req = some { r with phase := .fmtReadMark n } ∧
          t.eng.writeSeq = s.eng.writeSeq ∧ t.space.seqCtr = s.space.seqCtr ∧ t.eng.corruptReads = s.eng.corruptReads ∧
          t.mnt = s.mnt ∧ t.faults = s.faults ∧ t.flash = s.flash ∧ t.win.slots = s.win.slots ∧
          t.win.queue = s.win.queue ∧ s.win.HostKept t.win ∧ t.halted = s.halted ∧ t.pending = s.pending ∧
          t.rcl.stop = .format ∧ t.rcl.phase = .idle ∧ ∀ q, q ≠ planeOf n → t.plane q = s.plane q)

/-! ### Publishing and removing (chapters 4, 5 and 7) -/

/-- The ends of a write's record (R126, R128). The commit run of a new key's record answers DONE (R24, R64, R88, R152): the commit granule
holds its content, the record counts live in its sector, the index takes an entry for it, the class table takes a class descriptor's
policy and quota, the hold is released, and the request ends OK with the length, key, class and version of the new record. For a
superseded key the record counts live and RETIRE_OLD is claimed at the place that the hold answer gave. When that run answers DONE, the old
record is counted stale, the index entry takes the new record's class, place, length and version (R89), the class table and the hold follow
as above, and the request ends OK with REPLACED. -/
def Obligations.CommitPublishes : Prop :=
  ∀ (s : State) (r : Request) (p : PlaneId) (u : Run) (n : SectorNo) (o : Nat),
    s.eng.req = some r → s.agenda = [] → (s.slot r.slot).hidden = false → r.slot ∉ s.win.queue → s.eng.store = .ready →
    r.aborting = false → r.job.place = some { sector := n, offset := o } → s.idx.hold = some r.job.key → s.idx.waiter = none →
    s.rcl.act ≠ .heldWait → (s.plane p).run = some u → ({ s.plane p with run := none } : Plane).Idle →
    let j := r.job
    let fp := 24 + 8 * ((j.length + 7) / 8)
    let e := s.sector n
    let ended := s.setPlane p { s.plane p with run := none }
    let live := ended.putSector n
      { e with staleBytes := e.staleBytes - fp, liveBytes := e.liveBytes + fp, liveCount := e.liveCount + 1 }
    let system : Bool := decide (0xFF00 ≤ j.key) && decide (j.key ≤ 0xFF07)
    let classTaken : State → Prop := fun t => ∀ c : Fin 8, t.classes[c] = if system ∧ j.key = 0xFF00 + c.val then
        { policy := policyOf ((j.payload.getD 0 0).toNat), quota := ofBytes (j.payload.drop 1), present := true }
      else s.classes[c]
    let fields : ResultFields := { length := j.length, key := j.key, cls := j.cls, version := j.version }
    (∀ data : List Byte, r.phase = .commit →
      u = { claim := { who := .request, sector := n, first := o / 8 + 1, work := .program data .exact }, done := 0, stop := false } →
      data.length = 8 → o / 8 + 1 < 512 → flashRead s.flash n (8 * (o / 8 + 1)) 8 = List.replicate 8 0xFF →
      let written : State → Prop := fun t => ∀ m k, k < 4096 → flashByte t.flash m k =
        if m = n ∧ 8 * (o / 8 + 1) ≤ k ∧ k < 8 * (o / 8 + 1) + 8 then data.getD (k - 8 * (o / 8 + 1)) 0 else flashByte s.flash m k
      (r.entry = none → s.idx.lookup j.key = none → s.idx.entries.length < 1024 →
        ∃ t, exec (.granuleProgramDone p none) s = .next t ∧ written t ∧ classTaken t ∧
          { live with
            flash := t.flash
            classes := t.classes
            idx :=
              { entries := entryInsert
                  { key := j.key, cls := j.cls, place := { sector := n, offset := o }, length := j.length, version := j.version,
                    moving := false } s.idx.entries
                counts := s.idx.counts.set (countNo j.cls) (s.idx.counts[countNo j.cls] + 1)
                hold := none
                waiter := none } }.Ended t r.slot .ok fields r.flags) ∧
      (∀ old : Entry, r.entry = some old → (ended.plane (planeOf old.place.sector)).Idle →
        ∃ t, exec (.granuleProgramDone p none) s = .next t ∧ written t ∧
          ({ live.setPlane (planeOf old.place.sector) ((ended.plane (planeOf old.place.sector)).withRun .request old.place.sector
              (old.place.offset / 8 + 2) (.program [0, 0, 0, 0, 0, 0, 0, 0] .notErased)) with flash := t.flash }.setReq
            { r with phase := .retireOld }).Becomes t)) ∧
    (∀ old cur : Entry, r.phase = .retireOld → r.entry = some old → s.idx.lookup j.key = some cur →
      u = { claim := { who := .request, sector := old.place.sector, first := old.place.offset / 8 + 2,
                       work := .program [0, 0, 0, 0, 0, 0, 0, 0] .notErased }
            done := 0, stop := false } →
      old.place.offset / 8 + 2 < 512 →
      let x := s.sector old.place.sector
      let fpOld := 24 + 8 * ((old.length + 7) / 8)
      ∃ t, exec (.granuleProgramDone p none) s = .next t ∧ classTaken t ∧
        (∀ k, t.idx.lookup k = if k = j.key then
          some { cur with cls := j.cls, place := { sector := n, offset := o }, length := j.length, version := j.version }
        else s.idx.lookup k) ∧
        t.idx.counts = countMove s.idx.counts cur.cls j.cls ∧ t.idx.hold = none ∧ t.idx.waiter = none ∧
        { ended.putSector old.place.sector
            { x with liveBytes := x.liveBytes - fpOld, staleBytes := x.staleBytes + fpOld, liveCount := x.liveCount - 1 } with
          flash := t.flash
          classes := t.classes
          rcl := { s.rcl with noVictim := s.rcl.noVictim && x.state != SectorState.full }
          idx := t.idx }.Ended t r.slot .ok fields { r.flags with replaced := true })

/-- The retire run of a DELETE answers DONE (R132, R64, R90): the record's footprint moves to the stale bytes of its sector, the key leaves
the index and its class's count, the hold is released, and the DELETE ends OK with the fields of the record removed. -/
def Obligations.DeleteRemoves : Prop :=
  ∀ (s : State) (r : Request) (e : Entry) (p : PlaneId) (u : Run), s.eng.req = some r → s.agenda = [] →
    (s.slot r.slot).hidden = false → r.slot ∉ s.win.queue → s.eng.store = .ready → r.phase = .retire → r.aborting = false →
    r.entry = some e → s.idx.lookup e.key = some e → s.idx.hold = some e.key → s.idx.waiter = none → s.rcl.act ≠ .heldWait →
    u = { claim := { who := .request, sector := e.place.sector, first := e.place.offset / 8 + 2,
                     work := .program [0, 0, 0, 0, 0, 0, 0, 0] .notErased }
          done := 0, stop := false } →
    e.place.offset / 8 + 2 < 512 → (s.plane p).run = some u → ({ s.plane p with run := none } : Plane).Idle →
    let fp := 24 + 8 * ((e.length + 7) / 8)
    let x := s.sector e.place.sector
    ∃ t, exec (.granuleProgramDone p none) s = .next t ∧
      (∀ m k, k < 4096 → flashByte t.flash m k =
        if m = e.place.sector ∧ 8 * (e.place.offset / 8 + 2) ≤ k ∧ k < 8 * (e.place.offset / 8 + 2) + 8 then 0
        else flashByte s.flash m k) ∧
      let base := (s.setPlane p { s.plane p with run := none }).putSector e.place.sector
        { x with liveBytes := x.liveBytes - fp, staleBytes := x.staleBytes + fp, liveCount := x.liveCount - 1 }
      { base with
        flash := t.flash
        rcl := { s.rcl with noVictim := s.rcl.noVictim && x.state != SectorState.full }
        idx :=
          { entries := s.idx.entries.filter (fun f => f.key != e.key)
            counts := s.idx.counts.set (countNo e.cls) (s.idx.counts[countNo e.cls] - 1)
            hold := none
            waiter := none } }.Ended t r.slot .ok
          { length := e.length, key := e.key, cls := e.cls, version := e.version } r.flags

/-! ### The plane controllers (chapter 2) -/

/-- A granule of a program run that verifies before the last (R24, R20): each bit is 0 where the previous or the given content has 0, the
run goes on to its next granule, and nothing else changes. -/
def Obligations.GranuleVerifies : Prop :=
  ∀ (s : State) (p : PlaneId) (u : Run) (data : List Byte) (mode : Verify), (s.plane p).run = some u →
    (s.plane p).halted = false → u.stop = false → u.claim.work = .program data mode → u.claim.first + u.done < 512 →
    8 * (u.done + 2) ≤ data.length →
    let at_ := 8 * (u.claim.first + u.done)
    (mode = .exact → ∀ i, i < 8 →
      flashByte s.flash u.claim.sector (at_ + i) &&& data.getD (8 * u.done + i) 0 = data.getD (8 * u.done + i) 0) →
    (mode = .notErased → ∃ i, i < 8 ∧ flashByte s.flash u.claim.sector (at_ + i) &&& data.getD (8 * u.done + i) 0 ≠ 0xFF) →
    ∃ t, exec (.granuleProgramDone p none) s = .next t ∧
      t = { s.setPlane p { s.plane p with run := some { u with done := u.done + 1 } } with flash := t.flash } ∧
      ∀ n o, o < 4096 → flashByte t.flash n o =
        if n = u.claim.sector ∧ at_ ≤ o ∧ o < at_ + 8 then
          flashByte s.flash n o &&& data.getD (8 * u.done + (o - at_)) 0
        else flashByte s.flash n o

/-- A granule program that times out is a program fault (R25, R20, R38): it is counted, every bit of the granule holds its previous value or
the one the completed program would have given it, and no other byte of flash changes. The last clause is the model's reading of R20 and R54
together (log entry 7): of a granule that read erased an EXACT run leaves no valid identity, no valid open granule and no commit granule as
it was given, and of any other granule just the bits that took; and a NOT_ERASED run leaves it erased. -/
def Obligations.ProgramTimeoutFaults : Prop :=
  ∀ (s : State) (p : PlaneId) (u : Run) (data kept : List Byte) (mode : Verify), (s.plane p).run = some u →
    u.claim.work = .program data mode → u.claim.first + u.done < 512 → 8 * (u.done + 1) ≤ data.length → kept.length = 8 →
    let n := u.claim.sector
    let g := u.claim.first + u.done
    let given := (data.drop (8 * u.done)).take 8
    ∃ t, exec (.programTimeout p kept) s = .next t ∧
      t.faults = { s.faults with program := if s.faults.program < 65535 then s.faults.program + 1 else s.faults.program } ∧
      (∀ m o, o < 4096 → ¬(m = n ∧ 8 * g ≤ o ∧ o < 8 * g + 8) → flashByte t.flash m o = flashByte s.flash m o) ∧
      (∀ i k, i < 8 → k < 8 →
        let before := (flashByte s.flash n (8 * g + i)).getLsbD k
        let after := (flashByte t.flash n (8 * g + i)).getLsbD k
        after = before ∨ after = (before && (data.getD (8 * u.done + i) 0).getLsbD k)) ∧
      (flashRead s.flash n (8 * g) 8 = List.replicate 8 0xFF →
        let left := flashRead t.flash n (8 * g) 8
        let commit : Prop := data.drop 2 = [0xA5, 0x0F, 0x5A, 0xF0, 0xC3, 0x3C] ∧
          flashRead s.flash n (8 * (g - 1)) 8 ≠ List.replicate 8 0xFF
        (mode = .exact →
          (g = 0 → ∀ a b, readIdentity left ≠ .valid a b) ∧ (g = 1 → ∀ a b, readOpen left ≠ .valid a b) ∧
            (2 ≤ g → commit → left ≠ given) ∧
            (2 ≤ g → ¬commit → ∀ i, i < 8 → flashByte t.flash n (8 * g + i) = given.getD i 0 ||| kept.getD i 0)) ∧
        (mode = .notErased → left = List.replicate 8 0xFF))

/-- The faults that end a write (R127, R129, R25, R66), each a time-out that is counted. A second fault in the record's granules, of its DESCRIPTOR,
its PAYLOAD or its COMMIT run, ends the request WRITE_FAULT with the key unchanged; the sector is suspect, and closed where it is open, and the
hold released. A fault of RETIRE_OLD marks the old record's
sector suspect, closing it if it is open, and claims the retire of the new record. That retire ends the request WRITE_FAULT where it is
effective, the new record counted stale and the index as it was; where it faults too, the store enters READ_ONLY with STATE_CHG, the
record is published by replace, and the request ends OK with REPLACED and OLD_KEPT. -/
def Obligations.FaultsEndWrite : Prop :=
  ∀ (s : State) (r : Request) (p : PlaneId) (u : Run) (n : SectorNo) (o : Nat) (kept : List Byte),
    s.eng.req = some r → s.agenda = [] → (s.slot r.slot).hidden = false → r.slot ∉ s.win.queue → s.eng.store = .ready →
    r.aborting = false → r.job.place = some { sector := n, offset := o } → s.idx.waiter = none → s.rcl.act ≠ .heldWait →
    (s.plane p).run = some u → ({ s.plane p with run := none } : Plane).Idle →
    let j := r.job
    let ended := s.setPlane p { s.plane p with run := none }
    let faulted : SectorEntry → SectorEntry := fun e =>
      if e.state = .hostOpen ∨ e.state = .moveOpen then
        { e with state := .full, suspect := true, staleBytes := e.staleBytes + (4096 - e.append), append := 4096 }
      else { e with suspect := true }
    let counted : FaultCounts :=
      { s.faults with program := if s.faults.program < 65535 then s.faults.program + 1 else s.faults.program }
    (∀ (data : List Byte) (first : Nat),
      (r.phase = .descriptor ∧ first = o / 8 ∨ r.phase = .payload ∧ first = o / 8 + 3 ∨ r.phase = .commit ∧ first = o / 8 + 1) →
      r.job.faults = 1 → u.claim = { who := .request, sector := n, first := first, work := .program data .exact } →
      first + u.done < 512 →
      ∃ t, exec (.programTimeout p kept) s = .next t ∧ ((s.sector n).state = .hostOpen → t.rcl.noVictim = false) ∧
        { ended.putSector n (faulted (s.sector n)) with
          flash := t.flash
          rcl := { s.rcl with noVictim := t.rcl.noVictim }
          faults := counted
          idx := { s.idx with hold := none } }.Ended t r.slot .writeFault ResultFields.zero r.flags) ∧
    (∀ old : Entry, r.phase = .retireOld → r.entry = some old →
      u.claim = { who := .request, sector := old.place.sector, first := old.place.offset / 8 + 2,
                  work := .program [0, 0, 0, 0, 0, 0, 0, 0] .notErased } →
      old.place.offset / 8 + 2 + u.done < 512 → (ended.plane (planeOf n)).Idle →
      ∃ t, exec (.programTimeout p kept) s = .next t ∧
        ({ (ended.putSector old.place.sector (faulted (s.sector old.place.sector))).setPlane (planeOf n)
            ((ended.plane (planeOf n)).withRun .request n (o / 8 + 2) (.program [0, 0, 0, 0, 0, 0, 0, 0] .notErased)) with
          flash := t.flash
          rcl := { s.rcl with noVictim := t.rcl.noVictim }
          faults := counted }.setReq { r with phase := .retireNew }).Becomes t) ∧
    (∀ k : Nat, r.phase = .retireNew → s.idx.hold = some k →
      u = { claim := { who := .request, sector := n, first := o / 8 + 2, work := .program [0, 0, 0, 0, 0, 0, 0, 0] .notErased }
            done := 0, stop := false } →
      o / 8 + 2 < 512 →
      (let e := s.sector n
       let fp := 24 + 8 * ((j.length + 7) / 8)
       ∃ t, exec (.granuleProgramDone p none) s = .next t ∧
        { ended.putSector n
            { e with liveBytes := e.liveBytes - fp, staleBytes := e.staleBytes + fp, liveCount := e.liveCount - 1 } with
          flash := t.flash
          rcl := { s.rcl with noVictim := s.rcl.noVictim && e.state != SectorState.full }
          idx := { s.idx with hold := none } }.Ended t r.slot .writeFault ResultFields.zero r.flags) ∧
      (∀ old cur : Entry, r.entry = some old → s.idx.lookup j.key = some cur → s.rcl.phase = .idle →
        ∃ t, exec (.programTimeout p kept) s = .next t ∧
          (∀ k, t.idx.lookup k = if k = j.key then
            some { cur with cls := j.cls, place := { sector := n, offset := o }, length := j.length, version := j.version }
          else s.idx.lookup k) ∧
          t.idx.counts = countMove s.idx.counts cur.cls j.cls ∧ t.idx.hold = none ∧
          { ended.putSector n (faulted (s.sector n)) with
            win := { s.win with iflag := s.win.iflag ||| 0x20 }
            eng := { s.eng with store := .readOnly }
            flash := t.flash
            classes := t.classes
            rcl := { s.rcl with noVictim := t.rcl.noVictim }
            faults := counted
            idx := t.idx }.Ended t r.slot .ok
              { length := j.length, key := j.key, cls := j.cls, version := j.version }
              { r.flags with replaced := true, oldKept := true }))

/-- The erase of a reclaim cycle passes its blank check (R27, R169, R170, R40): the sector reads erased throughout, no other sector
changes, the suspect flag is cleared, and the cycle enters HEADER with the identity granule, of the store generation and the erase count
plus 1, going to the plane as a one-granule EXACT run. -/
def Obligations.EraseEntersHeader : Prop :=
  ∀ (s : State) (p : PlaneId) (e : EraseOp) (k : CycleKind), s.agenda = [] → p = planeOf e.sector → e.who = .reclaim →
    e.cond ≠ .suspended → (s.plane p).erase = some e → ({ s.plane p with erase := none } : Plane).Idle →
    s.rcl.phase = .erase → s.rcl.act = .erasing → s.rcl.cycle = some (e.sector, k) → s.rcl.step = none → s.rcl.stop = .none →
    (s.sector e.sector).state = .erasing →
    let x := s.sector e.sector
    ∃ t, exec (.eraseBlankCheck p []) s = .next t ∧
      t = { (s.putSector e.sector { x with suspect := false }).setPlane p
              (({ s.plane p with erase := none } : Plane).withRun .reclaim e.sector 0
                (.program (identityGranule s.space.gen (x.eraseCount + 1)) .exact)) with
            flash := t.flash, rcl := { s.rcl with phase := .header, act := .identity } } ∧
      ∀ n o, o < 4096 → flashByte t.flash n o = if n = e.sector then 0xFF else flashByte s.flash n o

/-- An erase fault, by the blank check or by the 150 ms limit (R28, R20, R38): it is counted, the sector holds what the cut-off erase left,
and no other sector changes. For the reclaim engine in its ERASE phase the sector is RETIRED at once and its retire granule is read
(R68, R70, R43). -/
def Obligations.EraseFaults : Prop :=
  ∀ (s : State) (p : PlaneId) (e : EraseOp) (left : List Host.Cell), (s.plane p).erase = some e → e.cond ≠ .suspended →
    sectorCellsWf left = true →
    let faulted : State → Prop := fun t =>
      t.faults = { s.faults with erase := if s.faults.erase < 65535 then s.faults.erase + 1 else s.faults.erase } ∧
      (∀ n o, o < 4096 → flashByte t.flash n o = if n = e.sector then cellGet 0xFF left o else flashByte s.flash n o) ∧
      (∀ k, s.agenda = [] → p = planeOf e.sector → e.who = .reclaim → ({ s.plane p with erase := none } : Plane).Idle →
        s.rcl.phase = .erase → s.rcl.act = .erasing → s.rcl.cycle = some (e.sector, k) → s.rcl.step = none →
        s.rcl.stop = .none → (s.sector e.sector).state = .erasing → 7 ≤ s.space.usableCount →
        t.sector e.sector = (s.sector e.sector).leaveUse .retired ∧ t.rcl.act = .readRetire .faulted ∧
          t.plane p = ({ s.plane p with erase := none } : Plane).withRun .reclaim e.sector 2 (.read 1))
    (∃ t, exec (.eraseTimeout p left) s = .next t ∧ faulted t) ∧
    (left ≠ [] → ∃ t, exec (.eraseBlankCheck p left) s = .next t ∧ faulted t)

/-- An ordered suspension completes (R31, R32, R33): the suspend count rises by 1 and a waiting run of the request engine is granted in the
suspension; where none waits any more the erase resumes at once. The command on an erase that is not suspending is not due and changes
nothing, which is the model's choice (log entry 5). -/
def Obligations.SuspensionCompletes : Prop :=
  ∀ (s : State) (p : PlaneId) (e : EraseOp), (s.plane p).erase = some e → (s.plane p).run = none →
    (∀ c, e.cond = .suspending → (s.plane p).waitReq = some c → c.work ≠ .erase →
      exec (.suspendComplete p) s = .next (s.setPlane p { s.plane p with
        run := some { claim := c, done := 0, stop := false }, waitReq := none,
        erase := some { e with cond := .suspended, count := e.count + 1 } })) ∧
    (e.cond = .suspending → (s.plane p).waitReq = none →
      exec (.suspendComplete p) s = .next (s.setPlane p { s.plane p with
        erase := some { e with cond := .running, count := e.count + 1 } })) ∧
    (e.cond ≠ .suspending → exec (.suspendComplete p) s = .next s)

/-- How a plane controller takes a claim of the request engine for a run (R21, R23, R30, R32, R34), and what it grants when a run has ended
with no erase in progress (R35). -/
def Obligations.PlaneArbitration : Prop :=
  (∀ (s : State) (c : Claim) (e : EraseOp), c.who = .request → c.work ≠ .erase → (s.plane (planeOf c.sector)).halted = false →
    (s.plane (planeOf c.sector)).erase = some e →
    let p := planeOf c.sector
    (e.sector = c.sector → s.claim c = s.signal (.answer .request .erasing)) ∧
    (e.sector ≠ c.sector → e.cond = .running → e.count < e.limit → s.claim c = s.setPlane p
      { s.plane p with waitReq := some c, erase := some { e with cond := .suspending } }) ∧
    (e.sector ≠ c.sector → e.cond = .running → e.count = e.limit →
      s.claim c = s.setPlane p { s.plane p with waitReq := some c }) ∧
    (e.sector ≠ c.sector → e.cond = .suspended → (s.plane p).run = none → s.claim c = s.setPlane p
      { s.plane p with run := some { claim := c, done := 0, stop := false } })) ∧
  (∀ (p : Plane) (limit : Nat), p.erase = none → p.halted = false →
    (∀ c, p.waitReq = some c → c.work ≠ .erase →
      p.finishRun limit = { p with run := some { claim := c, done := 0, stop := false }, waitReq := none }) ∧
    (∀ c, p.waitReq = none → p.waitRec = some c → c.work ≠ .erase →
      p.finishRun limit = { p with run := some { claim := c, done := 0, stop := false }, waitRec := none }) ∧
    (∀ c, p.waitReq = none → p.waitRec = some c → c.work = .erase →
      p.finishRun limit = { p with run := none, waitRec := none, erase := some ⟨c.who, c.sector, .running, 0, limit⟩ }) ∧
    (p.waitReq = none → p.waitRec = none → p.finishRun limit = { p with run := none }))

/-! ### The reclaim engine (chapter 9) -/

/-- SELECT names a sector (R160, R161, R67, R69, R70). The lowest ERASE_PENDING sector goes first: below ERASE_LIMIT it becomes ERASING and the
cycle enters ERASE with the reading of the erase mark granule on the sector's plane; at or above it the sector is RETIRED and its retire
granule is read. With none, the FULL sector that is chosen becomes VICTIM, and the cycle enters EVACUATE with the reading of the descriptor
granule at offset 64 (R162). The no-victim latch is cleared, and the exclusion list keeps the items that still stand (R159).
That the phase during the retire run stays the one in which the sector was taken is the model's choice (log entry 26). -/
def Obligations.SelectNamesSector : Prop :=
  ∀ (s : State) (n : SectorNo), s.agenda = [] → s.rcl.phase = .select → s.rcl.act = .select → s.rcl.stop = .none →
    (s.plane (planeOf n)).Idle →
    let stands : Exclusion → Prop := fun x => x ∈ s.rcl.excluded ∧
      ∃ e, s.idx.lookup x.key = some e ∧ e.place = { sector := x.sector, offset := x.offset }
    ((s.sector n).state = .erasePending → (∀ m, m < n → (s.sector m).state ≠ .erasePending) → (s.sector n).eraseCount < 100000 →
      ∃ t, exec .select s = .next t ∧
        t = { (s.putSector n { s.sector n with
                state := .erasing, seq := none, append := 64, liveCount := 0, liveBytes := 0, staleBytes := 0 }).setPlane (planeOf n)
                ((s.plane (planeOf n)).withRun .reclaim n 3 (.read 1)) with
              rcl := { s.rcl with
                phase := .erase, act := .readMark, cycle := some (n, .pending), noVictim := false, excluded := t.rcl.excluded } } ∧
        ∀ x, x ∈ t.rcl.excluded ↔ stands x) ∧
    ((s.sector n).state = .erasePending → (∀ m, m < n → (s.sector m).state ≠ .erasePending) → 100000 ≤ (s.sector n).eraseCount →
      7 ≤ s.space.usableCount →
      ∃ t, exec .select s = .next t ∧
        t = { (s.putSector n { s.sector n with
                state := .retired, seq := none, append := 64, liveCount := 0, liveBytes := 0, staleBytes := 0 }).setPlane (planeOf n)
                ((s.plane (planeOf n)).withRun .reclaim n 2 (.read 1)) with
              rcl := { s.rcl with
                act := .readRetire .completed, cycle := some (n, .pending), noVictim := false, excluded := t.rcl.excluded } } ∧
        ∀ x, x ∈ t.rcl.excluded ↔ stands x) ∧
    ((∀ m, (s.sector m).state ≠ .erasePending) → s.pruneExcluded.chooseVictim = some n →
      ∃ t, exec .select s = .next t ∧
        t = { (s.putSector n { s.sector n with state := .victim }).setPlane (planeOf n)
                ((s.plane (planeOf n)).withRun .reclaim n 8 (.read 1)) with
              rcl := { s.rcl with
                phase := .evacuate, act := .readDesc, cycle := some (n, .evacuation), pos := 64, noVictim := false
                excluded := t.rcl.excluded } } ∧
        ∀ x, x ∈ t.rcl.excluded ↔ stands x ∧ x.sector ≠ n)

/-- SELECT with no sector to name (R160, R161, R157): with no ERASE_PENDING sector and no FULL one that the tests name once the exclusion list
is brought up to date (R159), the no-victim latch is set, the reclaim engine
returns to IDLE and RECLAIM_DONE is raised. A RECLAIM that waits in CYCLE ends OK with NO_VICTIM (R136), and a write in WAIT_SPACE ends
STORE_FULL (R124). -/
def Obligations.SelectNoVictim : Prop :=
  ∀ s : State, s.agenda = [] → s.rcl.phase = .select → s.rcl.act = .select → s.rcl.stop = .none →
    (∀ n, (s.sector n).state ≠ .erasePending) → s.pruneExcluded.chooseVictim = none →
    (∀ r, s.eng.req = some r → r.phase ≠ .stopReclaim) →
    ∃ t, exec .select s = .next t ∧ t.rcl.noVictim = true ∧ t.rcl.phase = .idle ∧ t.rcl.cycle = none ∧
      t.win.flag .reclaimDone = true ∧ t.flash = s.flash ∧ t.idx.entries = s.idx.entries ∧ t.space = s.space ∧
      t.pl0 = s.pl0 ∧ t.pl1 = s.pl1 ∧
      (s.eng.req = none → s.win.queue = [] → t = { s with rcl := t.rcl, win := { s.win with iflag := s.win.iflag ||| 0x80 } }) ∧
      (∀ r, s.Standing r → r.phase = .cycle → t.slot r.slot = { s.slot r.slot with
        state := .done, code := .ok, fields := ResultFields.zero, flags := { r.flags with noVictim := true }, ptr := 0 }) ∧
      (∀ r, s.Standing r → r.phase = .waitSpace → t.slot r.slot = { s.slot r.slot with
        state := .done, code := .storeFull, fields := ResultFields.zero, flags := r.flags, ptr := 0 })

/-- The steps of an evacuation (R162 to R164, R85 to R87, R64). The descriptor granule at the evacuation position is read. Where the key's
entry points at the place and the key is not held, its moving mark is set and the whole record is read; where it does not, the record is
passed over; where the key is held, the engine waits for the hold, with the descriptor granule kept in the relocation buffer, which is the
model's choice (log entry 20), as is the division of the reads into runs (log entry 13). When the commit run of the copy answers DONE the copy counts live and
the original's retire granule is programmed. When that retire answers DONE the original counts stale, the entry points at the copy with
its other fields kept and its mark cleared, and the walk goes on at the next descriptor granule. -/
def Obligations.RelocationSteps : Prop :=
  ∀ (s : State) (n : SectorNo) (k : CycleKind) (p : PlaneId) (u : Run), s.agenda = [] → s.rcl.phase = .evacuate →
    s.rcl.cycle = some (n, k) → s.rcl.stop = .none → s.idx.waiter = none → (s.plane p).run = some u → u.claim.who = .reclaim →
    u.stop = false → ({ s.plane p with run := none } : Plane).Idle →
    let ended := s.setPlane p { s.plane p with run := none }
    let pos := s.rcl.pos
    (∀ (d : Descriptor) (i : Nat), s.rcl.act = .readDesc → s.rcl.step = none → p = planeOf n → u.claim.sector = n →
      u.claim.first = pos / 8 → u.claim.work = .read 1 → pos / 8 < 512 → pos = 8 * (pos / 8) →
      flashRead s.flash n pos 8 = descriptorGranule d → d.key < 65536 → 1 ≤ d.key → d.key ≠ 65535 → d.cls < 256 → d.length ≤ 240 →
      d.version < 4294967296 →
      let fp := 24 + 8 * ((d.length + 7) / 8)
      pos + fp ≤ 4096 →
      (s.idx.hold = some d.key →
        exec (.readRunDone p i) s = .next { ended with rcl := { s.rcl with act := .heldWait, buffer := descriptorGranule d } }) ∧
      (∀ e, s.idx.hold ≠ some d.key → s.idx.lookup d.key = some e → e.place = { sector := n, offset := pos } →
        ∃ t, exec (.readRunDone p i) s = .next t ∧
          (∀ key, t.idx.lookup key = if key = d.key then some { e with moving := true } else s.idx.lookup key) ∧
          t = { ended.setPlane p ((ended.plane p).withRun .reclaim n (pos / 8) (.read (fp / 8))) with
                idx := { s.idx with entries := t.idx.entries }
                rcl := { s.rcl with
                  act := .readRecord, buffer := []
                  step := some { key := d.key, original := { sector := n, offset := pos }, copy := none, footprint := fp, entry := e } } }) ∧
      (s.idx.hold ≠ some d.key → (∀ e, s.idx.lookup d.key = some e → e.place ≠ { sector := n, offset := pos }) → pos + fp ≤ 4072 →
        exec (.readRunDone p i) s = .next
          { ended.setPlane p ((ended.plane p).withRun .reclaim n ((pos + fp) / 8) (.read 1)) with
            rcl := { s.rcl with act := .readDesc, pos := pos + fp, buffer := [] } })) ∧
    (∀ (st : ReclaimStep) (m : SectorNo) (o : Nat) (data : List Byte), s.rcl.step = some st → st.copy = some { sector := m, offset := o } →
      s.rcl.act = .copyCommit →
      u.claim = { who := .reclaim, sector := m, first := o / 8 + 1, work := .program data .exact } → u.done = 0 → data.length = 8 →
      o / 8 + 1 < 512 → flashRead s.flash m (8 * (o / 8 + 1)) 8 = List.replicate 8 0xFF →
      (s.rcl.buffer.drop 16).take 8 = List.replicate 8 0xFF → (ended.plane (planeOf n)).Idle →
      let e := s.sector m
      let fp := st.footprint
      ∃ t, exec (.granuleProgramDone p none) s = .next t ∧
        (∀ x y, y < 4096 → flashByte t.flash x y =
          if x = m ∧ 8 * (o / 8 + 1) ≤ y ∧ y < 8 * (o / 8 + 1) + 8 then data.getD (y - 8 * (o / 8 + 1)) 0 else flashByte s.flash x y) ∧
        t = { (ended.putSector m
                { e with staleBytes := e.staleBytes - fp, liveBytes := e.liveBytes + fp, liveCount := e.liveCount + 1 }).setPlane
                (planeOf n) ((ended.plane (planeOf n)).withRun .reclaim n (st.original.offset / 8 + 2)
                  (.program [0, 0, 0, 0, 0, 0, 0, 0] .notErased)) with
              flash := t.flash
              rcl := { s.rcl with act := .retireOriginal } }) ∧
    (∀ (st : ReclaimStep) (c : Place) (e : Entry), s.rcl.step = some st → st.copy = some c → s.rcl.act = .retireOriginal →
      p = planeOf n → u.claim = { who := .reclaim, sector := n, first := st.original.offset / 8 + 2,
                                  work := .program [0, 0, 0, 0, 0, 0, 0, 0] .notErased } → u.done = 0 →
      st.original.offset / 8 + 2 < 512 → s.idx.lookup st.key = some e → e.place = st.original → (s.sector n).state = .victim →
      pos + st.footprint ≤ 4072 →
      let x := s.sector n
      let fp := st.footprint
      ∃ t, exec (.granuleProgramDone p none) s = .next t ∧
        (∀ key, t.idx.lookup key = if key = st.key then some { e with place := c, moving := false } else s.idx.lookup key) ∧
        t = { (ended.putSector n
                { x with liveBytes := x.liveBytes - fp, staleBytes := x.staleBytes + fp, liveCount := x.liveCount - 1 }).setPlane p
                ((ended.plane p).withRun .reclaim n ((pos + fp) / 8) (.read 1)) with
              flash := t.flash
              idx := { s.idx with entries := t.idx.entries }
              rcl := { s.rcl with act := .readDesc, pos := pos + fp, step := none, buffer := [] } })

/-- The choices of the space manager and of SELECT (R60, R160). An opening takes a BLANK sector of the lowest erase count, and of those the
lowest number. Of the FULL sectors not excluded SELECT takes the lowest-numbered suspect one; with none suspect, where the wear spread exceeds
its limit and no write is in WAIT_SPACE, the one of the lowest erase count, then the lowest number; and otherwise one with the most stale bytes,
above 0, then the lowest erase count, then the lowest number. It names none exactly where none is suspect or has stale bytes and levelling does
not apply or has none to take. -/
def Obligations.SectorChoices : Prop :=
  (∀ (x : Space) (n : SectorNo), x.chooseBlank = some n → x.sectors[n].state = .blank ∧
    ∀ m : SectorNo, x.sectors[m].state = .blank → x.sectors[n].eraseCount < x.sectors[m].eraseCount ∨
      (x.sectors[n].eraseCount = x.sectors[m].eraseCount ∧ n ≤ m)) ∧
  (∀ x : Space, x.chooseBlank = none → ∀ m : SectorNo, x.sectors[m].state ≠ .blank) ∧
  (∀ s : State,
    let open_ : SectorNo → Prop := fun m => (s.sector m).state = .full ∧ ∀ x ∈ s.rcl.excluded, x.sector ≠ m
    let levels : Prop := s.space.spreadExceeds s.win.wearsp = true ∧ s.engineState ≠ .waitSpace
    (s.chooseVictim = none ↔ ∀ m, open_ m → (s.sector m).suspect = false ∧ (s.sector m).staleBytes = 0 ∧ ¬levels) ∧
    ∀ n : SectorNo, s.chooseVictim = some n → open_ n ∧
      ((∃ m, open_ m ∧ (s.sector m).suspect = true) →
        (s.sector n).suspect = true ∧ ∀ m, open_ m → (s.sector m).suspect = true → n ≤ m) ∧
      ((∀ m, open_ m → (s.sector m).suspect = false) →
        (levels → ∀ m, open_ m → (s.sector n).eraseCount < (s.sector m).eraseCount ∨
          (s.sector n).eraseCount = (s.sector m).eraseCount ∧ n ≤ m) ∧
        (¬levels → 0 < (s.sector n).staleBytes ∧
          ∀ m, open_ m → 0 < (s.sector m).staleBytes →
            (s.sector m).staleBytes < (s.sector n).staleBytes ∨
              (s.sector m).staleBytes = (s.sector n).staleBytes ∧ ((s.sector n).eraseCount < (s.sector m).eraseCount ∨
                (s.sector n).eraseCount = (s.sector m).eraseCount ∧ n ≤ m))))

/-! ### The sector table and the index (chapters 4 and 5) -/

/-- The balance of a sector in use, live bytes plus stale bytes plus 64 equal to the append offset (R57). An opening and mount's taking of a
candidate set it (R60, R180), and it is kept by placing a record that fits, by giving the last place back, by a commit, by an effective
retire, by closing and by a program fault (R63 to R66). -/
def Obligations.BalanceKept : Prop :=
  ∀ (e : SectorEntry) (fp q : Nat),
    let balanced : SectorEntry → Prop := fun x => x.liveBytes + x.staleBytes + 64 = x.append ∧ x.append ≤ 4096
    (∀ (s : State) (n : SectorNo) (role : SectorState), (s.sector n).liveBytes = 0 → (s.sector n).staleBytes = 0 →
      balanced ((s.sectorOpened n role q).sector n)) ∧
    balanced (e.candidate q) ∧
    (balanced e →
      (e.append + fp ≤ 4096 → balanced (e.place fp) ∧ (e.isOpen = true → (e.place fp).giveBack e.append fp = e)) ∧
      (fp ≤ e.staleBytes → balanced (e.makeLive fp) ∧ (e.makeLive fp).makeStale fp = e) ∧
      (fp ≤ e.liveBytes → balanced (e.makeStale fp)) ∧
      balanced e.close ∧ e.close.free = 0 ∧ e.close.state = .full ∧ balanced e.faulted)

/-- SPACE_LOW (R72): a change of a sector table entry raises it exactly where it takes the BLANK count from above LOWMK to at or below it,
and lowers no flag. -/
def Obligations.SpaceLowOnCrossing : Prop :=
  ∀ (s : State) (n : SectorNo) (e : SectorEntry),
    let t := s.setSector n e
    t.space.blankCount + (if (s.sector n).state = .blank then 1 else 0) =
        s.space.blankCount + (if e.state = .blank then 1 else 0) ∧
      t.win.iflag = (if s.win.lowmk < s.space.blankCount ∧ t.space.blankCount ≤ s.win.lowmk then
        s.win.iflag ||| 0x10 else s.win.iflag)

/-- The claims on the index that change it (R84 to R90). Insert, replace, remove and relocate: the key named reads as the claim says and every
other key reads as before. Take-hold sets the hold on the key and answers the entry, or is refused where the entry carries the moving mark.
Mark-moving is answered HELD for the key held, NOT_CURRENT where no entry points at the place, and MARKED otherwise, with the mark set.
Clear-moving clears the mark of the key named. -/
def Obligations.IndexClaims : Prop :=
  ∀ (x : KeyIndex) (e : Entry) (k : Nat),
    (x.lookup e.key = none → x.entries.length < 1024 → (x.insert e).2 = .inserted ∧
      (x.insert e).1.lookup k = if k = e.key then some { e with moving := false } else x.lookup k) ∧
    (∀ old, x.lookup e.key = some old → ∃ y, x.replace e = some y ∧
      y.lookup k = if k = e.key then
        some { old with cls := e.cls, place := e.place, length := e.length, version := e.version } else x.lookup k) ∧
    (∀ old, x.lookup e.key = some old → ∃ y, x.remove e.key = some y ∧
      y.lookup k = if k = e.key then none else x.lookup k) ∧
    (∀ old, x.lookup e.key = some old → ∃ y, x.relocate e.key old.place e.place = some y ∧ y.counts = x.counts ∧
      y.lookup k = if k = e.key then some { old with place := e.place } else x.lookup k) ∧
    (∀ from_ : Place, (∀ old, x.lookup e.key = some old → old.place ≠ from_) → x.relocate e.key from_ e.place = none) ∧
    ((∀ old, x.lookup k = some old → old.moving = false) → x.takeHold k = some ({ x with hold := some k }, x.lookup k)) ∧
    (∀ old, x.lookup k = some old → old.moving = true → x.takeHold k = none) ∧
    (x.hold = some e.key → x.markMoving e.key e.place = (x, .held)) ∧
    (x.hold ≠ some e.key → (∀ old, x.lookup e.key = some old → old.place ≠ e.place) →
      x.markMoving e.key e.place = (x, .notCurrent)) ∧
    (∀ old, x.hold ≠ some e.key → x.lookup e.key = some old → old.place = e.place →
      ∃ y, x.markMoving e.key e.place = (y, .marked old) ∧ y = { x with entries := y.entries } ∧
        y.lookup k = if k = e.key then some { old with moving := true } else x.lookup k) ∧
    (x.clearMoving e.key).lookup k =
      (if k = e.key then (x.lookup k).map (fun old => { old with moving := false }) else x.lookup k) ∧
    x.clearMoving e.key = { x with entries := (x.clearMoving e.key).entries }

/-- A successor claim on a sound index (R83): the answer is the matching entry with the smallest key greater than the start key, and END
exactly where no entry matches. -/
def Obligations.SuccessorSmallest : Prop :=
  ∀ (x : KeyIndex) (start : Nat) (mask : Byte) (system : Bool), x.Sound →
    let matching : Entry → Prop := fun e => start < e.key ∧
      ((∃ _ : e.cls < 8, mask.getLsbD e.cls = true) ∨ (e.cls = 15 ∧ system = true))
    (∀ e, x.successor start mask system = some e ↔
      e ∈ x.entries ∧ matching e ∧ ∀ f ∈ x.entries, matching f → e.key ≤ f.key) ∧
    (x.successor start mask system = none ↔ ∀ f ∈ x.entries, ¬matching f)

/-! ### Mount (chapter 10) -/

/-- The steps of mount (R175 to R177, R179 to R186, R8).
HEADERS: the table entry of the sector scanned is set by the first row that applies to its header (R41 to R44). The next sector's header
is claimed after it, or the record area where the identity is valid and the open granule erased: that sector is BLANK where its record
area reads erased throughout and stays ERASE_PENDING where it does not. After sector 63 the generation is the highest noted; with none
noted the store is UNFORMATTED. The candidates of that generation are walked from the lowest sequence number on, the first one FULL and
its first descriptor granule claimed; a BLANK sector of a lower generation is ERASE_PENDING; and the sector sequence counter is one above
the highest number noted.
RECORDS: a descriptor granule that the walk reaches has its whole record read; a LIVE record of a key not in the index counts live in its
sector and enters the index, and the walk goes on behind it. A LIVE record of a key that has an entry is offered (R91, R181): of the two
the one of the higher version stays in the index, at equal versions the one of the higher sequence number, offset or sector number, and
the other joins the repair list. After the last walk the write sequence counter is one above the highest trusted version.
CLASSES reads the descriptor record of the lowest class that has one, loads its entry, FROZEN with quota 0 where it cannot be taken as it
stands (R153), and reads the next. With none left and an empty repair list the store becomes READY, or READ_ONLY with fewer than 6 sectors
usable, a failed repair or the counter exhausted, and STATE_CHG is raised.
REPAIR: an effective retire counts the record stale and a fault leaves it live in a suspect sector; the next repair is claimed after
either, and after the last mount ends.
The division of mount's reads into runs, in RECORDS, CLASSES and HEADERS, is the model's choice (log entry 13). -/
def Obligations.MountSteps : Prop :=
  ∀ (s : State) (p : PlaneId) (u : Run) (i : Nat), s.eng.store = .mounting → s.agenda = [] → (s.plane p).run = some u →
    u.claim.who = .mount → u.done = 0 → u.stop = false → (∀ q, ({ s.plane q with run := none } : Plane) = Plane.reset) →
    (∀ q, q ≠ p → (s.plane q).run = none) → s.eng.req = none → p = planeOf u.claim.sector →
    let n := u.claim.sector
    let granted : State → PlaneId → Run → Prop := fun t q v => t.plane q = { Plane.reset with run := some v } ∧
      ∀ q', q' ≠ q → t.plane q' = Plane.reset
    let runOf : SectorNo → Nat → Work → Run := fun m first work =>
      { claim := { who := .mount, sector := m, first := first, work := work }, done := 0, stop := false }
    let ended : State → State → Prop := fun x t =>
      let to_ : StoreState := if x.space.usableCount < 6 ∨ x.mnt.repairFailed = true ∨ x.eng.writeSeq = 4294967296 then .readOnly
        else .ready
      t.eng.store = to_ ∧ t.eng.writeSeq = x.eng.writeSeq ∧ t.mnt.phase = .none ∧ t.win.flag .stateChg = true ∧ t.idx = x.idx ∧
        t.classes = x.classes ∧ t.space = x.space ∧ ∀ q, t.plane q = Plane.reset
    -- HEADERS
    (s.mnt.phase = .headers → s.mnt.wholeRecord = false → s.mnt.scanSector = n → u.claim.first = 0 → u.claim.work = .read 4 →
      let id := readIdentity (flashRead s.flash n 0 8)
      let op := readOpen (flashRead s.flash n 8 8)
      let retired : Bool := flashRead s.flash n 16 8 != List.replicate 8 0xFF
      let marked : Bool := flashRead s.flash n 24 8 != List.replicate 8 0xFF
      let count : Nat := match id with
        | .valid _ c => c
        | _ => 0
      let known : Bool := match id with
        | .valid _ _ => true
        | _ => false
      let blankCheck : Bool := known && op == .erased && !retired && !marked
      let entry : SectorEntry := { SectorEntry.reset with
        state := if retired then .retired else .erasePending, eraseCount := count, known := known }
      let noted : List (SectorNo × Nat) := s.mnt.noted ++ match retired, id with
        | false, .valid gen _ => [(n, gen)]
        | _, _ => []
      let candidates : List Candidate := s.mnt.candidates ++ match retired, marked, id, op with
        | false, false, .valid gen _, .valid seq _ => [{ sector := n, gen := gen, seq := seq }]
        | _, _, _, _ => []
      let top : Option Nat := match op with
        | .valid seq _ => some (max (s.mnt.seqMax.getD seq) seq)
        | _ => s.mnt.seqMax
      ∃ t, exec (.readRunDone p i) s = .next t ∧ t.flash = s.flash ∧
        (n.val < 63 ∨ blankCheck = true → t.eng = s.eng ∧ t.win = s.win ∧ t.sector n = entry ∧
          (∀ m, m ≠ n → t.sector m = s.sector m) ∧ t.mnt.candidates = candidates ∧ t.mnt.noted = noted ∧ t.mnt.seqMax = top) ∧
        (blankCheck = true → granted t p (runOf n 8 (.read 504))) ∧
        (∀ m : SectorNo, blankCheck = false → m.val = n.val + 1 → t.mnt.scanSector = m ∧ granted t (planeOf m) (runOf m 0 (.read 4))) ∧
        (n = 63 → blankCheck = false → t.space.seqCtr = top.elim 0 (fun q => q + 1) ∧
          (noted = [] → t.eng.store = .unformatted ∧ t.eng.writeSeq = 1 ∧ t.space.gen = 0 ∧ t.win.flag .stateChg = true ∧
            t.mnt.phase = .none ∧ ∀ q, t.plane q = Plane.reset) ∧
          (noted ≠ [] → (∃ x ∈ noted, x.2 = t.space.gen) ∧ (∀ x ∈ noted, x.2 ≤ t.space.gen) ∧
            ((∃ c ∈ candidates, c.gen = t.space.gen) → t.eng = s.eng ∧ t.mnt.phase = .records ∧
              (∃ c ∈ candidates, c.gen = t.space.gen ∧ t.mnt.scanSector = c.sector ∧ (t.sector c.sector).state = .full ∧
                (t.sector c.sector).seq = some c.seq ∧ granted t (planeOf c.sector) (runOf c.sector 8 (.read 1)) ∧
                ∀ d ∈ candidates, d.gen = t.space.gen → c.seq < d.seq ∨ c.seq = d.seq ∧ c.sector ≤ d.sector) ∧
              ∀ x ∈ noted, x.2 < t.space.gen → x.1 ≠ n → x.1 ≠ t.mnt.scanSector → (s.sector x.1).state = .blank →
                (t.sector x.1).state = .erasePending)))) ∧
    (∀ m : SectorNo, s.mnt.phase = .headers → s.mnt.wholeRecord = true → s.mnt.scanSector = n → m.val = n.val + 1 → u.claim.first = 8 →
      u.claim.work = .read 504 →
      ∃ t, exec (.readRunDone p i) s = .next t ∧ t.flash = s.flash ∧ t.eng = s.eng ∧ t.win = s.win ∧ t.mnt.scanSector = m ∧
        granted t (planeOf m) (runOf m 0 (.read 4)) ∧ (∀ k, k ≠ n → t.sector k = s.sector k) ∧
        ((∀ o, 64 ≤ o → o < 4096 → flashByte s.flash n o = 0xFF) → t.sector n = { s.sector n with state := .blank }) ∧
        (∀ o, 64 ≤ o → o < 4096 → flashByte s.flash n o ≠ 0xFF → t.sector n = s.sector n)) ∧
    -- RECORDS
    (∀ (c : Candidate) (l : List Candidate) (d : Descriptor), s.mnt.phase = .records → s.mnt.candidates = c :: l → c.sector = n →
      s.mnt.scanSector = n → s.mnt.scanOffset = 8 * u.claim.first → 64 ≤ s.mnt.scanOffset → 1 ≤ d.key → d.key ≤ 0xFEFF → d.cls ≤ 7 →
      d.length ≤ 240 → d.version < 4294967296 → flashRead s.flash n s.mnt.scanOffset 8 = descriptorGranule d →
      let o := s.mnt.scanOffset
      let fp := 24 + 8 * ((d.length + 7) / 8)
      o + fp ≤ 4096 →
      (s.mnt.wholeRecord = false → u.claim.work = .read 1 → ∃ t, exec (.readRunDone p i) s = .next t ∧
        granted t p (runOf n u.claim.first (.read (fp / 8))) ∧ t.mnt = { s.mnt with wholeRecord := true } ∧ t.idx = s.idx ∧
        t.space = s.space ∧ t.eng = s.eng ∧ t.win = s.win ∧ t.flash = s.flash) ∧
      (s.mnt.wholeRecord = true → u.claim.work = .read (fp / 8) → verdict (flashRead s.flash n o fp) = .live →
        s.idx.lookup d.key = none → s.idx.entries.length < 1024 → o + fp ≤ 4072 → ∃ t, exec (.readRunDone p i) s = .next t ∧
        granted t p (runOf n ((o + fp) / 8) (.read 1)) ∧
        t.mnt = { s.mnt with scanOffset := o + fp, wholeRecord := false, verMax := max s.mnt.verMax d.version } ∧
        t.sector n = { s.sector n with
          liveCount := (s.sector n).liveCount + 1, liveBytes := (s.sector n).liveBytes + fp
          staleBytes := (s.sector n).staleBytes - fp } ∧
        (∀ m, m ≠ n → t.sector m = s.sector m) ∧
        (∀ k, t.idx.lookup k = if k = d.key then
          some { key := d.key, cls := d.cls, place := { sector := n, offset := o }, length := d.length, version := d.version
                 moving := false }
        else s.idx.lookup k) ∧
        t.eng = s.eng ∧ t.win = s.win ∧ t.flash = s.flash) ∧
      (∀ old : Entry, s.mnt.wholeRecord = true → u.claim.work = .read (fp / 8) → verdict (flashRead s.flash n o fp) = .live →
        s.idx.lookup d.key = some old → o + fp ≤ 4072 →
        let seq : SectorNo → Nat := fun m => (s.sector m).seq.getD 0
        let wins : Prop := old.version < d.version ∨ old.version = d.version ∧
          (old.place.sector = n ∧ old.place.offset < o ∨ old.place.sector ≠ n ∧ (seq old.place.sector < seq n ∨
            seq old.place.sector = seq n ∧ old.place.sector < n))
        let goesOn : State → Repair → Prop := fun t lost => granted t p (runOf n ((o + fp) / 8) (.read 1)) ∧
          t.mnt = { s.mnt with
            scanOffset := o + fp, wholeRecord := false, verMax := max s.mnt.verMax d.version, repairs := s.mnt.repairs ++ [lost]
            findings := { s.mnt.findings with duplicates := s.mnt.findings.duplicates + 1 } } ∧
          t.sector n = { s.sector n with
            liveCount := (s.sector n).liveCount + 1, liveBytes := (s.sector n).liveBytes + fp
            staleBytes := (s.sector n).staleBytes - fp } ∧
          (∀ m, m ≠ n → t.sector m = s.sector m) ∧ t.eng = s.eng ∧ t.win = s.win ∧ t.flash = s.flash
        (wins → old.place ≠ { sector := n, offset := o } → ∃ t, exec (.readRunDone p i) s = .next t ∧
          goesOn t { place := old.place, key := d.key, footprint := 24 + 8 * ((old.length + 7) / 8) } ∧
          ∀ k, t.idx.lookup k = if k = d.key then
            some { old with cls := d.cls, place := { sector := n, offset := o }, length := d.length, version := d.version }
          else s.idx.lookup k) ∧
        (¬wins → ∃ t, exec (.readRunDone p i) s = .next t ∧
          goesOn t { place := { sector := n, offset := o }, key := d.key, footprint := fp } ∧ t.idx = s.idx))) ∧
    -- The end of RECORDS, and CLASSES
    (∀ (c : Candidate), s.mnt.phase = .records → s.mnt.candidates = [c] → s.mnt.versionWalk = [] → s.mnt.wholeRecord = false →
      u.claim.work = .read 1 → u.claim.first < 512 → s.mnt.scanOffset = 8 * u.claim.first →
      flashRead s.flash n s.mnt.scanOffset 8 = List.replicate 8 0xFF →
      let x : State := { s with eng := { s.eng with writeSeq := s.mnt.verMax + 1 } }
      (∀ (cls : Fin 8) (e : Entry), s.idx.lookup (0xFF00 + cls.val) = some e →
        (∀ lower : Fin 8, lower < cls → s.idx.lookup (0xFF00 + lower.val) = none) →
        ∃ t, exec (.readRunDone p i) s = .next t ∧ t.eng = x.eng ∧ t.mnt.phase = .classes ∧ t.mnt.cls = cls.val ∧
          granted t (planeOf e.place.sector) (runOf e.place.sector (e.place.offset / 8) (.read (3 + (e.length + 7) / 8)))) ∧
      ((∀ cls : Fin 8, s.idx.lookup (0xFF00 + cls.val) = none) → s.mnt.repairs = [] → s.win.queue = [] → s.rcl.phase = .idle →
        ∃ t, exec (.readRunDone p i) s = .next t ∧ ended x t ∧ t.flash = s.flash)) ∧
    (∀ (cls : Fin 8) (e : Entry), s.mnt.phase = .classes → s.mnt.cls = cls.val → s.idx.lookup (0xFF00 + cls.val) = some e →
      u.claim.first = e.place.offset / 8 → u.claim.work = .read (3 + (e.length + 7) / 8) →
      u.claim.first + 3 + (e.length + 7) / 8 ≤ 512 →
      let record := flashRead s.flash n (8 * u.claim.first) (8 * (3 + (e.length + 7) / 8))
      let code := (record.getD 24 0).toNat
      let quota := (record.getD 25 0).toNat + 256 * (record.getD 26 0).toNat
      let good : Prop := recordPasses record e = true ∧ e.length = 3 ∧ code < 3 ∧ quota ≤ 1024 ∧ (quota = 0 ∨ s.idx.count cls.val ≤ quota)
      let entry : ClassEntry → Prop := fun c =>
        (good → c = { policy := if code = 0 then .rewritable else if code = 1 then .writeOnce else .frozen, quota := quota
                      present := true }) ∧
        (¬good → c = { policy := .frozen, quota := 0, present := true })
      ∃ c : ClassEntry, entry c ∧ let x : State := { s with classes := s.classes.set cls.val c }
        (∀ (up : Fin 8) (f : Entry), cls < up → s.idx.lookup (0xFF00 + up.val) = some f →
          (∀ k : Fin 8, cls < k → k < up → s.idx.lookup (0xFF00 + k.val) = none) →
          ∃ t, exec (.readRunDone p i) s = .next t ∧ t.classes = x.classes ∧ t.mnt = { s.mnt with cls := up.val } ∧ t.idx = s.idx ∧
            t.eng = s.eng ∧ t.win = s.win ∧ t.flash = s.flash ∧
            granted t (planeOf f.place.sector) (runOf f.place.sector (f.place.offset / 8) (.read (3 + (f.length + 7) / 8)))) ∧
        ((∀ k : Fin 8, cls < k → s.idx.lookup (0xFF00 + k.val) = none) → s.mnt.repairs = [] → s.win.queue = [] → s.rcl.phase = .idle →
          ∃ t, exec (.readRunDone p i) s = .next t ∧ ended x t ∧ t.flash = s.flash)) ∧
    -- REPAIR
    (∀ a : Repair, s.mnt.phase = .repair → s.mnt.repairs = [a] → a.place.sector = n → u.claim.first = a.place.offset / 8 + 2 →
      u.claim.first < 512 → u.claim.work = .program [0, 0, 0, 0, 0, 0, 0, 0] .notErased → s.win.queue = [] → s.rcl.phase = .idle →
      let e := s.sector n
      (∃ t, exec (.granuleProgramDone p none) s = .next t ∧ ended (s.putSector n { e with
        liveBytes := e.liveBytes - a.footprint, staleBytes := e.staleBytes + a.footprint, liveCount := e.liveCount - 1 }) t) ∧
      (∀ kept, e.state = .full → ∃ t, exec (.programTimeout p kept) s = .next t ∧ t.eng.store = .readOnly ∧
        ended { s.putSector n { e with suspect := true } with mnt := { s.mnt with repairFailed := true } } t)) ∧
    (∀ (a b : Repair) (l : List Repair), s.mnt.phase = .repair → s.mnt.repairs = a :: b :: l → a.place.sector = n →
      u.claim.first = a.place.offset / 8 + 2 → u.claim.first < 512 → u.claim.work = .program [0, 0, 0, 0, 0, 0, 0, 0] .notErased →
      let e := s.sector n
      let next : State → Prop := fun t =>
        granted t (planeOf b.place.sector)
          (runOf b.place.sector (b.place.offset / 8 + 2) (.program [0, 0, 0, 0, 0, 0, 0, 0] .notErased)) ∧
        t.eng = s.eng ∧ t.idx = s.idx ∧ t.win = s.win ∧ ∀ m, m ≠ n → t.sector m = s.sector m
      (∃ t, exec (.granuleProgramDone p none) s = .next t ∧ next t ∧ t.mnt = { s.mnt with repairs := b :: l } ∧
        t.sector n = { e with
          liveBytes := e.liveBytes - a.footprint, staleBytes := e.staleBytes + a.footprint, liveCount := e.liveCount - 1 }) ∧
      (∀ kept, ∃ t, exec (.programTimeout p kept) s = .next t ∧ next t ∧
        t.mnt = { s.mnt with repairs := b :: l, repairFailed := true } ∧ (t.sector n).suspect = true ∧
        (t.sector n).liveBytes = e.liveBytes ∧ (t.sector n).liveCount = e.liveCount))

/-! ### The on-flash format (chapter 3) -/

/-- The header granules read back as they were composed (R40 to R42): every identity granule of a generation from 1 to 65535 and an erase
count of 24 bits, and every open granule of a 32-bit sequence number and either role. The header check catches every change of a single byte
(R41): an identity granule with one byte other than composed reads damaged. -/
def Obligations.HeaderGranulesReadBack : Prop :=
  (∀ gen count : Nat, 1 ≤ gen → gen ≤ 65535 → count < 16777216 →
    (identityGranule gen count).length = 8 ∧ readIdentity (identityGranule gen count) = .valid gen count ∧
    ∀ (i : Nat) (b : Byte), i < 8 → b ≠ (identityGranule gen count).getD i 0 →
      readIdentity ((identityGranule gen count).set i b) = .damaged) ∧
  (∀ (seq : Nat) (role : Byte), seq < 4294967296 → (role = 0x01 ∨ role = 0x02) →
    (openGranule seq role).length = 8 ∧ readOpen (openGranule seq role) = .valid seq role)

/-- A record reads back as it was composed (R45 to R49, R52, R53, R55): descriptor, commit, erased retire granule and padded payload of a user
record, or of a class descriptor, make a chain step of the record's footprint, a LIVE verdict and a pass of the run-time check; with
any retire granule that is not fully erased the verdict is RETIRED. One byte other than composed, of the descriptor, the CRC, the commit pattern
or the payload, makes the run-time check fail; the verdict is then INCOMPLETE, failing CRC for a byte of the CRC or the payload, uncommitted for
one of the pattern, and never LIVE for one of the descriptor that leaves its length. -/
def Obligations.RecordReadsBack : Prop :=
  ∀ (d : Descriptor) (payload retire : List Byte) (p : Place) (moving : Bool),
    (1 ≤ d.key ∧ d.key ≤ 0xFEFF ∧ d.cls ≤ 7 ∨ 0xFF00 ≤ d.key ∧ d.key ≤ 0xFF07 ∧ d.cls = 15) → d.length ≤ 240 →
    d.version < 4294967296 → payload.length = d.length → retire.length = 8 →
    let record := descriptorGranule d ++ commitGranule (descriptorGranule d) payload ++ retire ++ paddedPayload payload
    record.length = footprint d.length ∧ readDescriptor (record.take 8) = d ∧
      (∀ o, o + footprint d.length ≤ 4096 → chainStep o (record.take 8) = .record (footprint d.length)) ∧
      recordPasses record { key := d.key, cls := d.cls, place := p, length := d.length, version := d.version, moving := moving } =
        true ∧
      (verdict record = if retire = List.replicate 8 0xFF then .live else .retired) ∧
      ∀ (i : Nat) (b : Byte), b ≠ record.getD i 0 →
        let wrong := record.set i b
        let payloadByte : Prop := 24 ≤ i ∧ i < 24 + d.length
        (i < 16 ∨ payloadByte → recordPasses wrong
          { key := d.key, cls := d.cls, place := p, length := d.length, version := d.version, moving := moving } = false) ∧
        (retire = List.replicate 8 0xFF →
          (i < 8 → i ≠ 3 → verdict wrong ≠ .live) ∧ (8 ≤ i → i < 10 → verdict wrong = .failingCrc) ∧
            (10 ≤ i → i < 16 → verdict wrong = .uncommitted) ∧ (payloadByte → verdict wrong = .failingCrc))

/-! ### Chip reset and power-fail halt (chapters 11 and 12) -/

/-- CHIP_RESET (R207, R198, R113, R37, R8). RESET# low brings every block to its chip-reset value and holds it there. Flash keeps every byte
but of the granule whose program was in progress and of a sector whose erase was in hand. A program cut off leaves each bit at its previous
value or at that of the completed program (R20), and of an erased identity granule no valid identity other than the one given (R41). A sector
whose erase was cut off reads as one that mount makes ERASE_PENDING, with no valid identity or with the identity granule it had, or is as it was
(R37, R196, log entry 7). Held low, the part takes no other command: nothing changes and a read drives 0. Its release begins mount with the
header of sector 0; with PFI# low then, the store goes from MOUNTING to HALTED at once, with STATE_CHG raised and no sector read. The commands
that wait stand across a chip reset (log entry 9), the byte that the last read drove is 0 after it (log entry 10), and a release of a part that
is not held changes nothing (log entry 9): these three are the model's choice. -/
def Obligations.ChipReset : Prop :=
  (∀ (s : State) (a b : Torn), ∃ t, exec (.chipReset .asserted a b) s = .next t ∧ t = State.atReset t.flash s.pending ∧
    (∀ (n : SectorNo) (o : Nat), o < 4096 → (∀ p e, (s.plane p).erase = some e → e.sector ≠ n) →
      (∀ p u data mode, (s.plane p).run = some u → u.claim.work = .program data mode → u.claim.sector = n →
        ¬(8 * (u.claim.first + u.done) ≤ o ∧ o < 8 * (u.claim.first + u.done) + 8)) →
      flashByte t.flash n o = flashByte s.flash n o) ∧
    (∀ p u data mode, (s.plane p).run = some u → u.claim.work = .program data mode → u.claim.first + u.done < 512 →
      (∀ q f, (s.plane q).erase = some f → f.sector ≠ u.claim.sector) →
      (∀ q v, q ≠ p → (s.plane q).run = some v → v.claim.sector ≠ u.claim.sector) →
      let n := u.claim.sector
      let g := u.claim.first + u.done
      let given := (data.drop (8 * u.done)).take 8
      (∀ i k, i < 8 → k < 8 →
        let before := (flashByte s.flash n (8 * g + i)).getLsbD k
        let after := (flashByte t.flash n (8 * g + i)).getLsbD k
        after = before ∨ after = (before && (data.getD (8 * u.done + i) 0).getLsbD k)) ∧
      (g = 0 → 8 * (u.done + 1) ≤ data.length → a.granule.length = 8 → b.granule.length = 8 →
        flashRead s.flash n 0 8 = List.replicate 8 0xFF →
        ∀ x y, readIdentity (flashRead t.flash n 0 8) = .valid x y → flashRead t.flash n 0 8 = given)) ∧
    (∀ p e, (s.plane p).erase = some e → (∀ q f, (s.plane q).erase = some f → planeOf f.sector = q) →
      (∀ q u, (s.plane q).run = some u → u.claim.sector ≠ e.sector) →
      headerPending (flashRead t.flash e.sector 0 32) = true ∧
          ((∀ a b, readIdentity (flashRead t.flash e.sector 0 8) ≠ .valid a b) ∨
            flashRead t.flash e.sector 0 8 = flashRead s.flash e.sector 0 8) ∨
        ∀ o, o < 4096 → flashByte t.flash e.sector o = flashByte s.flash e.sector o)) ∧
  (∀ (flash : List Host.Cell) (pending : List Instr) (a b : Torn),
    let held := State.atReset flash pending
    (∀ c, (∀ edge x y, c ≠ .chipReset edge x y) → exec c held = .next held) ∧
    exec (.chipReset (.released false) a b) held = .next { State.reset with flash := flash, pending := pending } ∧
    ∃ t, exec (.chipReset (.released true) a b) held = .next t ∧ t.resetLow = false ∧
      t.eng = { Engine.reset with store := .halted } ∧ t.halted = true ∧ t.win = { Window.reset with iflag := 0x20 } ∧
      t.pl0 = { Plane.reset with halted := true } ∧ t.pl1 = { Plane.reset with halted := true } ∧ t.space = Space.reset ∧
      t.idx = KeyIndex.reset ∧ t.flash = flash ∧ t.pending = pending) ∧
  (∀ (s : State) (low : Bool) (a b : Torn), s.resetLow = false → exec (.chipReset (.released low) a b) s = .next s)

/-- What the 32 bytes of the window read after a chip reset (section 12.5, R113): 0x64 at ID, 4, 16 and 32 at LOWMK, SUSLIM and WEARSP, and 0
everywhere else; and while RESET# is held low, 0 everywhere (R198). -/
def Obligations.ResetWindowBytes : Prop :=
  ∀ offset : Fin 32, State.reset.windowByte offset =
      (if offset = 0 then 0x64 else if offset = 8 then 4 else if offset = 9 then 16 else if offset = 10 then 32 else 0) ∧
    ∀ s : State, s.resetLow = true → s.windowByte offset = 0

/-- PFI# asserted (R190 to R194, R36, R172): the flag is latched, the store is HALTED with STATE_CHG raised, both plane controllers are
halted with their erases abandoned and nothing waiting, the reclaim engine is IDLE, and every QUEUED slot ends POWER_FAIL with its SLOTDONE
flag. The class table, the sector table, the mount findings and every sector not being erased stand. An ACTIVE request with a run in service
waits for its answer; one without ends POWER_FAIL, a WRITE in WAIT_SPACE or WAIT_MOVE and one whose claim waits among them, with the index
as it was; but a write whose RETIRE_OLD waits has committed and ends OK with REPLACED. A second assertion changes nothing. A commit run in
service at the halt ends its WRITE OK, with its key in the index, where it answers DONE, and POWER_FAIL with the index as it was where it
answers FAULT. -/
def Obligations.PowerFailHalt : Prop :=
  (∀ (s : State) (l0 l1 : List Host.Cell),
    (s.halted = true → exec (.powerFailHalt l0 l1) s = .next s) ∧
    (s.halted = false → s.resetLow = false → s.eng.store ≠ .halted → s.agenda = [] → s.win.queue.Nodup →
      (∀ n ∈ s.win.queue, (s.slot n).hidden = false) →
      (∀ r, s.eng.req = some r → r.slot ∉ s.win.queue ∧ (s.slot r.slot).hidden = false) →
      ∃ t, exec (.powerFailHalt l0 l1) s = .next t ∧ t.halted = true ∧ t.eng.store = .halted ∧ t.win.flag .stateChg = true ∧
        t.pl0 = { s.pl0 with halted := true, waitReq := none, waitRec := none, erase := none } ∧
        t.pl1 = { s.pl1 with halted := true, waitReq := none, waitRec := none, erase := none } ∧
        t.rcl.phase = .idle ∧ t.rcl.cycle = none ∧ t.win.queue = [] ∧ t.space = s.space ∧ t.mnt = s.mnt ∧
        t.eng.writeSeq = s.eng.writeSeq ∧
        (∀ n ∈ s.win.queue, t.win.flag (.slotDone n) = true ∧ t.slot n = { s.slot n with
          state := .done, code := .powerFail, fields := ResultFields.zero, flags := ResultFlags.none, ptr := 0 }) ∧
        (s.eng.req = none → t.eng.req = none ∧ t.idx = s.idx ∧ t.classes = s.classes) ∧
        (∀ r, s.eng.req = some r → s.runInService .request = true →
          t.eng.req = some r ∧ t.slot r.slot = s.slot r.slot ∧ t.idx = s.idx ∧ t.classes = s.classes) ∧
        (∀ r, s.eng.req = some r → s.runInService .request = false → r.phase ≠ .retireOld → r.phase ≠ .retireNew →
          t.eng.req = none ∧ t.idx = { s.idx with hold := none, waiter := none } ∧ t.classes = s.classes ∧
          t.win.flag (.slotDone r.slot) = true ∧ t.slot r.slot = { s.slot r.slot with
            state := .done, code := .powerFail, fields := ResultFields.zero, flags := r.flags, ptr := 0 }) ∧
        (∀ r pl old cur, s.eng.req = some r → s.runInService .request = false → r.phase = .retireOld → r.job.place = some pl →
          r.entry = some old → s.idx.lookup r.job.key = some cur →
          t.eng.req = none ∧ t.win.flag (.slotDone r.slot) = true ∧
          (∀ k, t.idx.lookup k = if k = r.job.key then
            some { cur with cls := r.job.cls, place := pl, length := r.job.length, version := r.job.version }
          else s.idx.lookup k) ∧
          t.slot r.slot = { s.slot r.slot with
            state := .done, code := .ok
            fields := { length := r.job.length, key := r.job.key, cls := r.job.cls, version := r.job.version }
            flags := { r.flags with replaced := true }, ptr := 0 }) ∧
        (∀ n, n ∉ s.win.queue → (∀ r, s.eng.req = some r → r.slot ≠ n) → t.slot n = s.slot n) ∧
        ∀ n o, o < 4096 → (∀ p e, (s.plane p).erase = some e → e.sector ≠ n) → flashByte t.flash n o = flashByte s.flash n o)) ∧
  (∀ (s : State) (r : Request) (p : PlaneId) (u : Run) (n : SectorNo) (o : Nat) (data kept : List Byte),
    s.eng.store = .halted → (s.plane p).halted = true → s.eng.req = some r → s.agenda = [] → (s.slot r.slot).hidden = false →
    r.slot ∉ s.win.queue → r.phase = .commit → r.aborting = false → r.entry = none → r.job.place = some { sector := n, offset := o } →
    s.idx.hold = some r.job.key → s.idx.waiter = none → s.rcl.act = .idle → s.idx.lookup r.job.key = none →
    s.idx.entries.length < 1024 →
    u = { claim := { who := .request, sector := n, first := o / 8 + 1, work := .program data .exact }, done := 0, stop := false } →
    data.length = 8 → o / 8 + 1 < 512 → flashRead s.flash n (8 * (o / 8 + 1)) 8 = List.replicate 8 0xFF → (s.plane p).run = some u →
    let fields : ResultFields := { length := r.job.length, key := r.job.key, cls := r.job.cls, version := r.job.version }
    (∃ t, exec (.granuleProgramDone p none) s = .next t ∧ t.eng.req = none ∧
      t.slot r.slot = { s.slot r.slot with state := .done, code := .ok, fields := fields, flags := r.flags, ptr := 0 } ∧
      ∀ k, t.idx.lookup k = if k = r.job.key then
        some { key := r.job.key, cls := r.job.cls, place := { sector := n, offset := o }, length := r.job.length
               version := r.job.version, moving := false }
      else s.idx.lookup k) ∧
    (∃ t, exec (.programTimeout p kept) s = .next t ∧ t.eng.req = none ∧
      t.slot r.slot =
        { s.slot r.slot with state := .done, code := .powerFail, fields := ResultFields.zero, flags := r.flags, ptr := 0 } ∧
      t.idx = { s.idx with hold := none }))

/-! ### Every step -/

/-- The state after reset is sound. -/
def Obligations.ResetSound : Prop := State.reset.Sound

/-- Every step keeps a sound state sound: flash and the slot buffers keep their one form within the 262 144 bytes of the array and the 256
positions of a buffer (R19, R93), the index stays ordered, at most 1024 entries long and counted (R78, R79), no suspend count passes its
latched limit (R33), the clamped bytes stay in their ranges (R202), the power-fail flag is latched exactly in HALTED (R190), a slot is
QUEUED exactly while it is in the queue, once, and ACTIVE exactly while the request engine has taken it, so that at most one is, and
only an ACTIVE slot is hidden (R94, R104, R112), and a part held in reset is at its chip-reset values (R207). -/
def Obligations.StepKeepsSound : Prop := ∀ s t : State, s.Sound → step s = .next t → t.Sound

/-- HALTED is left by CHIP_RESET alone, MOUNTING is entered by CHIP_RESET alone, and every change of the store state that another command
makes raises STATE_CHG (R7, R14). -/
def Obligations.StoreStateChanges : Prop :=
  ∀ (c : Instr) (s t : State), exec c s = .next t → (∀ edge a b, c ≠ .chipReset edge a b) →
    (s.eng.store = .halted → t.eng.store = .halted) ∧ (t.eng.store = .mounting → s.eng.store = .mounting) ∧
      (t.eng.store ≠ s.eng.store → t.win.flag .stateChg = true)

/-- Once mount has ended, the write sequence counter, the store generation and the sector sequence counter never fall but at a chip reset
(R6, R73, R74), and the mount findings stand (R135, R182). -/
def Obligations.CountersNeverFall : Prop :=
  ∀ (c : Instr) (s t : State), exec c s = .next t → (∀ edge a b, c ≠ .chipReset edge a b) → s.eng.store ≠ .mounting →
    s.eng.writeSeq ≤ t.eng.writeSeq ∧ s.space.gen ≤ t.space.gen ∧ s.space.seqCtr ≤ t.space.seqCtr ∧
      t.mnt.findings = s.mnt.findings

/-- Who changes flash and who changes parameters. Flash changes by the end of a granule program, a program time-out, the two ends of an
erase, a halt and a chip reset, and by no other command (R39); a granule program sets no bit (R20). The selected slot's
parameters change by CLAIM, or its value 0x01 written to ACTION, by a parameter write and by a chip reset, and no other slot's change but
by a chip reset (R96, R97, R204). -/
def Obligations.FlashAndParameterChanges : Prop :=
  ∀ (c : Instr) (s t : State), exec c s = .next t → (∀ edge a b, c ≠ .chipReset edge a b) →
    (t.flash ≠ s.flash →
      (∃ p x, c = .granuleProgramDone p x) ∨ (∃ p x, c = .programTimeout p x) ∨ (∃ p x, c = .eraseBlankCheck p x) ∨
        (∃ p x, c = .eraseTimeout p x) ∨ ∃ x y, c = .powerFailHalt x y) ∧
    (((∃ p x, c = .granuleProgramDone p x) ∨ ∃ p x, c = .programTimeout p x) → ∀ n o k, o < 4096 →
      (flashByte t.flash n o).getLsbD k = true → (flashByte s.flash n o).getLsbD k = true) ∧
    ∀ n, (t.slot n).params ≠ (s.slot n).params →
      n = s.win.sel ∧ (c = .claim ∨ c = .actionCode 1 ∨ ∃ b v, c = .paramWrite b v)

end
end

