-- ==== Sys2Proof/Laws/State.lean ====
section
/-! SUPPORT. The state's record updates: one lemma per field that an update leaves, and what each update sets. -/

namespace Sys2Proof.Machine

/-! ### signal -/

@[simp] theorem State.signal_win (s : State) (x : Signal) : (s.signal x).win = s.win := rfl
@[simp] theorem State.signal_eng (s : State) (x : Signal) : (s.signal x).eng = s.eng := rfl
@[simp] theorem State.signal_idx (s : State) (x : Signal) : (s.signal x).idx = s.idx := rfl
@[simp] theorem State.signal_classes (s : State) (x : Signal) : (s.signal x).classes = s.classes := rfl
@[simp] theorem State.signal_space (s : State) (x : Signal) : (s.signal x).space = s.space := rfl
@[simp] theorem State.signal_rcl (s : State) (x : Signal) : (s.signal x).rcl = s.rcl := rfl
@[simp] theorem State.signal_pl0 (s : State) (x : Signal) : (s.signal x).pl0 = s.pl0 := rfl
@[simp] theorem State.signal_pl1 (s : State) (x : Signal) : (s.signal x).pl1 = s.pl1 := rfl
@[simp] theorem State.signal_faults (s : State) (x : Signal) : (s.signal x).faults = s.faults := rfl
@[simp] theorem State.signal_mnt (s : State) (x : Signal) : (s.signal x).mnt = s.mnt := rfl
@[simp] theorem State.signal_halted (s : State) (x : Signal) : (s.signal x).halted = s.halted := rfl
@[simp] theorem State.signal_resetLow (s : State) (x : Signal) : (s.signal x).resetLow = s.resetLow := rfl
@[simp] theorem State.signal_flash (s : State) (x : Signal) : (s.signal x).flash = s.flash := rfl
@[simp] theorem State.signal_pending (s : State) (x : Signal) : (s.signal x).pending = s.pending := rfl

/-! ### raise -/

@[simp] theorem State.raise_eng (s : State) (f : IntFlag) : (s.raise f).eng = s.eng := rfl
@[simp] theorem State.raise_idx (s : State) (f : IntFlag) : (s.raise f).idx = s.idx := rfl
@[simp] theorem State.raise_classes (s : State) (f : IntFlag) : (s.raise f).classes = s.classes := rfl
@[simp] theorem State.raise_space (s : State) (f : IntFlag) : (s.raise f).space = s.space := rfl
@[simp] theorem State.raise_rcl (s : State) (f : IntFlag) : (s.raise f).rcl = s.rcl := rfl
@[simp] theorem State.raise_pl0 (s : State) (f : IntFlag) : (s.raise f).pl0 = s.pl0 := rfl
@[simp] theorem State.raise_pl1 (s : State) (f : IntFlag) : (s.raise f).pl1 = s.pl1 := rfl
@[simp] theorem State.raise_faults (s : State) (f : IntFlag) : (s.raise f).faults = s.faults := rfl
@[simp] theorem State.raise_mnt (s : State) (f : IntFlag) : (s.raise f).mnt = s.mnt := rfl
@[simp] theorem State.raise_halted (s : State) (f : IntFlag) : (s.raise f).halted = s.halted := rfl
@[simp] theorem State.raise_resetLow (s : State) (f : IntFlag) : (s.raise f).resetLow = s.resetLow := rfl
@[simp] theorem State.raise_flash (s : State) (f : IntFlag) : (s.raise f).flash = s.flash := rfl
@[simp] theorem State.raise_agenda (s : State) (f : IntFlag) : (s.raise f).agenda = s.agenda := rfl
@[simp] theorem State.raise_pending (s : State) (f : IntFlag) : (s.raise f).pending = s.pending := rfl

/-! ### windowFault -/

@[simp] theorem State.windowFault_eng (s : State) (f : WindowFault) : (s.windowFault f).eng = s.eng := rfl
@[simp] theorem State.windowFault_idx (s : State) (f : WindowFault) : (s.windowFault f).idx = s.idx := rfl
@[simp] theorem State.windowFault_classes (s : State) (f : WindowFault) : (s.windowFault f).classes = s.classes := rfl
@[simp] theorem State.windowFault_space (s : State) (f : WindowFault) : (s.windowFault f).space = s.space := rfl
@[simp] theorem State.windowFault_rcl (s : State) (f : WindowFault) : (s.windowFault f).rcl = s.rcl := rfl
@[simp] theorem State.windowFault_pl0 (s : State) (f : WindowFault) : (s.windowFault f).pl0 = s.pl0 := rfl
@[simp] theorem State.windowFault_pl1 (s : State) (f : WindowFault) : (s.windowFault f).pl1 = s.pl1 := rfl
@[simp] theorem State.windowFault_faults (s : State) (f : WindowFault) : (s.windowFault f).faults = s.faults := rfl
@[simp] theorem State.windowFault_mnt (s : State) (f : WindowFault) : (s.windowFault f).mnt = s.mnt := rfl
@[simp] theorem State.windowFault_halted (s : State) (f : WindowFault) : (s.windowFault f).halted = s.halted := rfl
@[simp] theorem State.windowFault_resetLow (s : State) (f : WindowFault) : (s.windowFault f).resetLow = s.resetLow := rfl
@[simp] theorem State.windowFault_flash (s : State) (f : WindowFault) : (s.windowFault f).flash = s.flash := rfl
@[simp] theorem State.windowFault_agenda (s : State) (f : WindowFault) : (s.windowFault f).agenda = s.agenda := rfl
@[simp] theorem State.windowFault_pending (s : State) (f : WindowFault) : (s.windowFault f).pending = s.pending := rfl

/-! ### setSlot -/

@[simp] theorem State.setSlot_eng (s : State) (n : SlotNo) (x : Slot) : (s.setSlot n x).eng = s.eng := rfl
@[simp] theorem State.setSlot_idx (s : State) (n : SlotNo) (x : Slot) : (s.setSlot n x).idx = s.idx := rfl
@[simp] theorem State.setSlot_classes (s : State) (n : SlotNo) (x : Slot) : (s.setSlot n x).classes = s.classes := rfl
@[simp] theorem State.setSlot_space (s : State) (n : SlotNo) (x : Slot) : (s.setSlot n x).space = s.space := rfl
@[simp] theorem State.setSlot_rcl (s : State) (n : SlotNo) (x : Slot) : (s.setSlot n x).rcl = s.rcl := rfl
@[simp] theorem State.setSlot_pl0 (s : State) (n : SlotNo) (x : Slot) : (s.setSlot n x).pl0 = s.pl0 := rfl
@[simp] theorem State.setSlot_pl1 (s : State) (n : SlotNo) (x : Slot) : (s.setSlot n x).pl1 = s.pl1 := rfl
@[simp] theorem State.setSlot_faults (s : State) (n : SlotNo) (x : Slot) : (s.setSlot n x).faults = s.faults := rfl
@[simp] theorem State.setSlot_mnt (s : State) (n : SlotNo) (x : Slot) : (s.setSlot n x).mnt = s.mnt := rfl
@[simp] theorem State.setSlot_halted (s : State) (n : SlotNo) (x : Slot) : (s.setSlot n x).halted = s.halted := rfl
@[simp] theorem State.setSlot_resetLow (s : State) (n : SlotNo) (x : Slot) : (s.setSlot n x).resetLow = s.resetLow := rfl
@[simp] theorem State.setSlot_flash (s : State) (n : SlotNo) (x : Slot) : (s.setSlot n x).flash = s.flash := rfl
@[simp] theorem State.setSlot_agenda (s : State) (n : SlotNo) (x : Slot) : (s.setSlot n x).agenda = s.agenda := rfl
@[simp] theorem State.setSlot_pending (s : State) (n : SlotNo) (x : Slot) : (s.setSlot n x).pending = s.pending := rfl

/-! ### setSelected -/

@[simp] theorem State.setSelected_eng (s : State) (x : Slot) : (s.setSelected x).eng = s.eng := rfl
@[simp] theorem State.setSelected_idx (s : State) (x : Slot) : (s.setSelected x).idx = s.idx := rfl
@[simp] theorem State.setSelected_classes (s : State) (x : Slot) : (s.setSelected x).classes = s.classes := rfl
@[simp] theorem State.setSelected_space (s : State) (x : Slot) : (s.setSelected x).space = s.space := rfl
@[simp] theorem State.setSelected_rcl (s : State) (x : Slot) : (s.setSelected x).rcl = s.rcl := rfl
@[simp] theorem State.setSelected_pl0 (s : State) (x : Slot) : (s.setSelected x).pl0 = s.pl0 := rfl
@[simp] theorem State.setSelected_pl1 (s : State) (x : Slot) : (s.setSelected x).pl1 = s.pl1 := rfl
@[simp] theorem State.setSelected_faults (s : State) (x : Slot) : (s.setSelected x).faults = s.faults := rfl
@[simp] theorem State.setSelected_mnt (s : State) (x : Slot) : (s.setSelected x).mnt = s.mnt := rfl
@[simp] theorem State.setSelected_halted (s : State) (x : Slot) : (s.setSelected x).halted = s.halted := rfl
@[simp] theorem State.setSelected_resetLow (s : State) (x : Slot) : (s.setSelected x).resetLow = s.resetLow := rfl
@[simp] theorem State.setSelected_flash (s : State) (x : Slot) : (s.setSelected x).flash = s.flash := rfl
@[simp] theorem State.setSelected_agenda (s : State) (x : Slot) : (s.setSelected x).agenda = s.agenda := rfl
@[simp] theorem State.setSelected_pending (s : State) (x : Slot) : (s.setSelected x).pending = s.pending := rfl

/-! ### drive -/

@[simp] theorem State.drive_eng (s : State) (b : Byte) : (s.drive b).eng = s.eng := rfl
@[simp] theorem State.drive_idx (s : State) (b : Byte) : (s.drive b).idx = s.idx := rfl
@[simp] theorem State.drive_classes (s : State) (b : Byte) : (s.drive b).classes = s.classes := rfl
@[simp] theorem State.drive_space (s : State) (b : Byte) : (s.drive b).space = s.space := rfl
@[simp] theorem State.drive_rcl (s : State) (b : Byte) : (s.drive b).rcl = s.rcl := rfl
@[simp] theorem State.drive_pl0 (s : State) (b : Byte) : (s.drive b).pl0 = s.pl0 := rfl
@[simp] theorem State.drive_pl1 (s : State) (b : Byte) : (s.drive b).pl1 = s.pl1 := rfl
@[simp] theorem State.drive_faults (s : State) (b : Byte) : (s.drive b).faults = s.faults := rfl
@[simp] theorem State.drive_mnt (s : State) (b : Byte) : (s.drive b).mnt = s.mnt := rfl
@[simp] theorem State.drive_halted (s : State) (b : Byte) : (s.drive b).halted = s.halted := rfl
@[simp] theorem State.drive_resetLow (s : State) (b : Byte) : (s.drive b).resetLow = s.resetLow := rfl
@[simp] theorem State.drive_flash (s : State) (b : Byte) : (s.drive b).flash = s.flash := rfl
@[simp] theorem State.drive_agenda (s : State) (b : Byte) : (s.drive b).agenda = s.agenda := rfl
@[simp] theorem State.drive_pending (s : State) (b : Byte) : (s.drive b).pending = s.pending := rfl

/-! ### setReq -/

@[simp] theorem State.setReq_win (s : State) (r : Request) : (s.setReq r).win = s.win := rfl
@[simp] theorem State.setReq_idx (s : State) (r : Request) : (s.setReq r).idx = s.idx := rfl
@[simp] theorem State.setReq_classes (s : State) (r : Request) : (s.setReq r).classes = s.classes := rfl
@[simp] theorem State.setReq_space (s : State) (r : Request) : (s.setReq r).space = s.space := rfl
@[simp] theorem State.setReq_rcl (s : State) (r : Request) : (s.setReq r).rcl = s.rcl := rfl
@[simp] theorem State.setReq_pl0 (s : State) (r : Request) : (s.setReq r).pl0 = s.pl0 := rfl
@[simp] theorem State.setReq_pl1 (s : State) (r : Request) : (s.setReq r).pl1 = s.pl1 := rfl
@[simp] theorem State.setReq_faults (s : State) (r : Request) : (s.setReq r).faults = s.faults := rfl
@[simp] theorem State.setReq_mnt (s : State) (r : Request) : (s.setReq r).mnt = s.mnt := rfl
@[simp] theorem State.setReq_halted (s : State) (r : Request) : (s.setReq r).halted = s.halted := rfl
@[simp] theorem State.setReq_resetLow (s : State) (r : Request) : (s.setReq r).resetLow = s.resetLow := rfl
@[simp] theorem State.setReq_flash (s : State) (r : Request) : (s.setReq r).flash = s.flash := rfl
@[simp] theorem State.setReq_agenda (s : State) (r : Request) : (s.setReq r).agenda = s.agenda := rfl
@[simp] theorem State.setReq_pending (s : State) (r : Request) : (s.setReq r).pending = s.pending := rfl

/-! ### clearReq -/

@[simp] theorem State.clearReq_win (s : State) : s.clearReq.win = s.win := rfl
@[simp] theorem State.clearReq_idx (s : State) : s.clearReq.idx = s.idx := rfl
@[simp] theorem State.clearReq_classes (s : State) : s.clearReq.classes = s.classes := rfl
@[simp] theorem State.clearReq_space (s : State) : s.clearReq.space = s.space := rfl
@[simp] theorem State.clearReq_rcl (s : State) : s.clearReq.rcl = s.rcl := rfl
@[simp] theorem State.clearReq_pl0 (s : State) : s.clearReq.pl0 = s.pl0 := rfl
@[simp] theorem State.clearReq_pl1 (s : State) : s.clearReq.pl1 = s.pl1 := rfl
@[simp] theorem State.clearReq_faults (s : State) : s.clearReq.faults = s.faults := rfl
@[simp] theorem State.clearReq_mnt (s : State) : s.clearReq.mnt = s.mnt := rfl
@[simp] theorem State.clearReq_halted (s : State) : s.clearReq.halted = s.halted := rfl
@[simp] theorem State.clearReq_resetLow (s : State) : s.clearReq.resetLow = s.resetLow := rfl
@[simp] theorem State.clearReq_flash (s : State) : s.clearReq.flash = s.flash := rfl
@[simp] theorem State.clearReq_agenda (s : State) : s.clearReq.agenda = s.agenda := rfl
@[simp] theorem State.clearReq_pending (s : State) : s.clearReq.pending = s.pending := rfl

/-! ### dropWaiter -/

@[simp] theorem State.dropWaiter_win (s : State) : s.dropWaiter.win = s.win := rfl
@[simp] theorem State.dropWaiter_eng (s : State) : s.dropWaiter.eng = s.eng := rfl
@[simp] theorem State.dropWaiter_classes (s : State) : s.dropWaiter.classes = s.classes := rfl
@[simp] theorem State.dropWaiter_space (s : State) : s.dropWaiter.space = s.space := rfl
@[simp] theorem State.dropWaiter_rcl (s : State) : s.dropWaiter.rcl = s.rcl := rfl
@[simp] theorem State.dropWaiter_pl0 (s : State) : s.dropWaiter.pl0 = s.pl0 := rfl
@[simp] theorem State.dropWaiter_pl1 (s : State) : s.dropWaiter.pl1 = s.pl1 := rfl
@[simp] theorem State.dropWaiter_faults (s : State) : s.dropWaiter.faults = s.faults := rfl
@[simp] theorem State.dropWaiter_mnt (s : State) : s.dropWaiter.mnt = s.mnt := rfl
@[simp] theorem State.dropWaiter_halted (s : State) : s.dropWaiter.halted = s.halted := rfl
@[simp] theorem State.dropWaiter_resetLow (s : State) : s.dropWaiter.resetLow = s.resetLow := rfl
@[simp] theorem State.dropWaiter_flash (s : State) : s.dropWaiter.flash = s.flash := rfl
@[simp] theorem State.dropWaiter_agenda (s : State) : s.dropWaiter.agenda = s.agenda := rfl
@[simp] theorem State.dropWaiter_pending (s : State) : s.dropWaiter.pending = s.pending := rfl

/-! ### setAct -/

@[simp] theorem State.setAct_win (s : State) (a : ReclaimAct) : (s.setAct a).win = s.win := rfl
@[simp] theorem State.setAct_eng (s : State) (a : ReclaimAct) : (s.setAct a).eng = s.eng := rfl
@[simp] theorem State.setAct_idx (s : State) (a : ReclaimAct) : (s.setAct a).idx = s.idx := rfl
@[simp] theorem State.setAct_classes (s : State) (a : ReclaimAct) : (s.setAct a).classes = s.classes := rfl
@[simp] theorem State.setAct_space (s : State) (a : ReclaimAct) : (s.setAct a).space = s.space := rfl
@[simp] theorem State.setAct_pl0 (s : State) (a : ReclaimAct) : (s.setAct a).pl0 = s.pl0 := rfl
@[simp] theorem State.setAct_pl1 (s : State) (a : ReclaimAct) : (s.setAct a).pl1 = s.pl1 := rfl
@[simp] theorem State.setAct_faults (s : State) (a : ReclaimAct) : (s.setAct a).faults = s.faults := rfl
@[simp] theorem State.setAct_mnt (s : State) (a : ReclaimAct) : (s.setAct a).mnt = s.mnt := rfl
@[simp] theorem State.setAct_halted (s : State) (a : ReclaimAct) : (s.setAct a).halted = s.halted := rfl
@[simp] theorem State.setAct_resetLow (s : State) (a : ReclaimAct) : (s.setAct a).resetLow = s.resetLow := rfl
@[simp] theorem State.setAct_flash (s : State) (a : ReclaimAct) : (s.setAct a).flash = s.flash := rfl
@[simp] theorem State.setAct_agenda (s : State) (a : ReclaimAct) : (s.setAct a).agenda = s.agenda := rfl
@[simp] theorem State.setAct_pending (s : State) (a : ReclaimAct) : (s.setAct a).pending = s.pending := rfl

/-! ### putSector -/

@[simp] theorem State.putSector_win (s : State) (n : SectorNo) (e : SectorEntry) : (s.putSector n e).win = s.win := rfl
@[simp] theorem State.putSector_eng (s : State) (n : SectorNo) (e : SectorEntry) : (s.putSector n e).eng = s.eng := rfl
@[simp] theorem State.putSector_idx (s : State) (n : SectorNo) (e : SectorEntry) : (s.putSector n e).idx = s.idx := rfl
@[simp] theorem State.putSector_classes (s : State) (n : SectorNo) (e : SectorEntry) : (s.putSector n e).classes = s.classes := rfl
@[simp] theorem State.putSector_rcl (s : State) (n : SectorNo) (e : SectorEntry) : (s.putSector n e).rcl = s.rcl := rfl
@[simp] theorem State.putSector_pl0 (s : State) (n : SectorNo) (e : SectorEntry) : (s.putSector n e).pl0 = s.pl0 := rfl
@[simp] theorem State.putSector_pl1 (s : State) (n : SectorNo) (e : SectorEntry) : (s.putSector n e).pl1 = s.pl1 := rfl
@[simp] theorem State.putSector_faults (s : State) (n : SectorNo) (e : SectorEntry) : (s.putSector n e).faults = s.faults := rfl
@[simp] theorem State.putSector_mnt (s : State) (n : SectorNo) (e : SectorEntry) : (s.putSector n e).mnt = s.mnt := rfl
@[simp] theorem State.putSector_halted (s : State) (n : SectorNo) (e : SectorEntry) : (s.putSector n e).halted = s.halted := rfl
@[simp] theorem State.putSector_resetLow (s : State) (n : SectorNo) (e : SectorEntry) : (s.putSector n e).resetLow = s.resetLow := rfl
@[simp] theorem State.putSector_flash (s : State) (n : SectorNo) (e : SectorEntry) : (s.putSector n e).flash = s.flash := rfl
@[simp] theorem State.putSector_agenda (s : State) (n : SectorNo) (e : SectorEntry) : (s.putSector n e).agenda = s.agenda := rfl
@[simp] theorem State.putSector_pending (s : State) (n : SectorNo) (e : SectorEntry) : (s.putSector n e).pending = s.pending := rfl

/-! ### takeSeq -/

@[simp] theorem State.takeSeq_win (s : State) : s.takeSeq.win = s.win := rfl
@[simp] theorem State.takeSeq_eng (s : State) : s.takeSeq.eng = s.eng := rfl
@[simp] theorem State.takeSeq_idx (s : State) : s.takeSeq.idx = s.idx := rfl
@[simp] theorem State.takeSeq_classes (s : State) : s.takeSeq.classes = s.classes := rfl
@[simp] theorem State.takeSeq_rcl (s : State) : s.takeSeq.rcl = s.rcl := rfl
@[simp] theorem State.takeSeq_pl0 (s : State) : s.takeSeq.pl0 = s.pl0 := rfl
@[simp] theorem State.takeSeq_pl1 (s : State) : s.takeSeq.pl1 = s.pl1 := rfl
@[simp] theorem State.takeSeq_faults (s : State) : s.takeSeq.faults = s.faults := rfl
@[simp] theorem State.takeSeq_mnt (s : State) : s.takeSeq.mnt = s.mnt := rfl
@[simp] theorem State.takeSeq_halted (s : State) : s.takeSeq.halted = s.halted := rfl
@[simp] theorem State.takeSeq_resetLow (s : State) : s.takeSeq.resetLow = s.resetLow := rfl
@[simp] theorem State.takeSeq_flash (s : State) : s.takeSeq.flash = s.flash := rfl
@[simp] theorem State.takeSeq_agenda (s : State) : s.takeSeq.agenda = s.agenda := rfl
@[simp] theorem State.takeSeq_pending (s : State) : s.takeSeq.pending = s.pending := rfl

/-! ### setMount -/

@[simp] theorem State.setMount_win (s : State) (m : Mount) : (s.setMount m).win = s.win := rfl
@[simp] theorem State.setMount_eng (s : State) (m : Mount) : (s.setMount m).eng = s.eng := rfl
@[simp] theorem State.setMount_idx (s : State) (m : Mount) : (s.setMount m).idx = s.idx := rfl
@[simp] theorem State.setMount_classes (s : State) (m : Mount) : (s.setMount m).classes = s.classes := rfl
@[simp] theorem State.setMount_space (s : State) (m : Mount) : (s.setMount m).space = s.space := rfl
@[simp] theorem State.setMount_rcl (s : State) (m : Mount) : (s.setMount m).rcl = s.rcl := rfl
@[simp] theorem State.setMount_pl0 (s : State) (m : Mount) : (s.setMount m).pl0 = s.pl0 := rfl
@[simp] theorem State.setMount_pl1 (s : State) (m : Mount) : (s.setMount m).pl1 = s.pl1 := rfl
@[simp] theorem State.setMount_faults (s : State) (m : Mount) : (s.setMount m).faults = s.faults := rfl
@[simp] theorem State.setMount_halted (s : State) (m : Mount) : (s.setMount m).halted = s.halted := rfl
@[simp] theorem State.setMount_resetLow (s : State) (m : Mount) : (s.setMount m).resetLow = s.resetLow := rfl
@[simp] theorem State.setMount_flash (s : State) (m : Mount) : (s.setMount m).flash = s.flash := rfl
@[simp] theorem State.setMount_agenda (s : State) (m : Mount) : (s.setMount m).agenda = s.agenda := rfl
@[simp] theorem State.setMount_pending (s : State) (m : Mount) : (s.setMount m).pending = s.pending := rfl

/-! ### countProgramFault -/

@[simp] theorem State.countProgramFault_win (s : State) : s.countProgramFault.win = s.win := rfl
@[simp] theorem State.countProgramFault_eng (s : State) : s.countProgramFault.eng = s.eng := rfl
@[simp] theorem State.countProgramFault_idx (s : State) : s.countProgramFault.idx = s.idx := rfl
@[simp] theorem State.countProgramFault_classes (s : State) : s.countProgramFault.classes = s.classes := rfl
@[simp] theorem State.countProgramFault_space (s : State) : s.countProgramFault.space = s.space := rfl
@[simp] theorem State.countProgramFault_rcl (s : State) : s.countProgramFault.rcl = s.rcl := rfl
@[simp] theorem State.countProgramFault_pl0 (s : State) : s.countProgramFault.pl0 = s.pl0 := rfl
@[simp] theorem State.countProgramFault_pl1 (s : State) : s.countProgramFault.pl1 = s.pl1 := rfl
@[simp] theorem State.countProgramFault_mnt (s : State) : s.countProgramFault.mnt = s.mnt := rfl
@[simp] theorem State.countProgramFault_halted (s : State) : s.countProgramFault.halted = s.halted := rfl
@[simp] theorem State.countProgramFault_resetLow (s : State) : s.countProgramFault.resetLow = s.resetLow := rfl
@[simp] theorem State.countProgramFault_flash (s : State) : s.countProgramFault.flash = s.flash := rfl
@[simp] theorem State.countProgramFault_agenda (s : State) : s.countProgramFault.agenda = s.agenda := rfl
@[simp] theorem State.countProgramFault_pending (s : State) : s.countProgramFault.pending = s.pending := rfl

/-! ### countEraseFault -/

@[simp] theorem State.countEraseFault_win (s : State) : s.countEraseFault.win = s.win := rfl
@[simp] theorem State.countEraseFault_eng (s : State) : s.countEraseFault.eng = s.eng := rfl
@[simp] theorem State.countEraseFault_idx (s : State) : s.countEraseFault.idx = s.idx := rfl
@[simp] theorem State.countEraseFault_classes (s : State) : s.countEraseFault.classes = s.classes := rfl
@[simp] theorem State.countEraseFault_space (s : State) : s.countEraseFault.space = s.space := rfl
@[simp] theorem State.countEraseFault_rcl (s : State) : s.countEraseFault.rcl = s.rcl := rfl
@[simp] theorem State.countEraseFault_pl0 (s : State) : s.countEraseFault.pl0 = s.pl0 := rfl
@[simp] theorem State.countEraseFault_pl1 (s : State) : s.countEraseFault.pl1 = s.pl1 := rfl
@[simp] theorem State.countEraseFault_mnt (s : State) : s.countEraseFault.mnt = s.mnt := rfl
@[simp] theorem State.countEraseFault_halted (s : State) : s.countEraseFault.halted = s.halted := rfl
@[simp] theorem State.countEraseFault_resetLow (s : State) : s.countEraseFault.resetLow = s.resetLow := rfl
@[simp] theorem State.countEraseFault_flash (s : State) : s.countEraseFault.flash = s.flash := rfl
@[simp] theorem State.countEraseFault_agenda (s : State) : s.countEraseFault.agenda = s.agenda := rfl
@[simp] theorem State.countEraseFault_pending (s : State) : s.countEraseFault.pending = s.pending := rfl

/-! ### setGranule -/

@[simp] theorem State.setGranule_win (s : State) (c : Claim) (k : Nat) (g : List Byte) : (s.setGranule c k g).win = s.win := rfl
@[simp] theorem State.setGranule_eng (s : State) (c : Claim) (k : Nat) (g : List Byte) : (s.setGranule c k g).eng = s.eng := rfl
@[simp] theorem State.setGranule_idx (s : State) (c : Claim) (k : Nat) (g : List Byte) : (s.setGranule c k g).idx = s.idx := rfl
@[simp] theorem State.setGranule_classes (s : State) (c : Claim) (k : Nat) (g : List Byte) : (s.setGranule c k g).classes = s.classes := rfl
@[simp] theorem State.setGranule_space (s : State) (c : Claim) (k : Nat) (g : List Byte) : (s.setGranule c k g).space = s.space := rfl
@[simp] theorem State.setGranule_rcl (s : State) (c : Claim) (k : Nat) (g : List Byte) : (s.setGranule c k g).rcl = s.rcl := rfl
@[simp] theorem State.setGranule_pl0 (s : State) (c : Claim) (k : Nat) (g : List Byte) : (s.setGranule c k g).pl0 = s.pl0 := rfl
@[simp] theorem State.setGranule_pl1 (s : State) (c : Claim) (k : Nat) (g : List Byte) : (s.setGranule c k g).pl1 = s.pl1 := rfl
@[simp] theorem State.setGranule_faults (s : State) (c : Claim) (k : Nat) (g : List Byte) : (s.setGranule c k g).faults = s.faults := rfl
@[simp] theorem State.setGranule_mnt (s : State) (c : Claim) (k : Nat) (g : List Byte) : (s.setGranule c k g).mnt = s.mnt := rfl
@[simp] theorem State.setGranule_halted (s : State) (c : Claim) (k : Nat) (g : List Byte) : (s.setGranule c k g).halted = s.halted := rfl
@[simp] theorem State.setGranule_resetLow (s : State) (c : Claim) (k : Nat) (g : List Byte) : (s.setGranule c k g).resetLow = s.resetLow := rfl
@[simp] theorem State.setGranule_agenda (s : State) (c : Claim) (k : Nat) (g : List Byte) : (s.setGranule c k g).agenda = s.agenda := rfl
@[simp] theorem State.setGranule_pending (s : State) (c : Claim) (k : Nat) (g : List Byte) : (s.setGranule c k g).pending = s.pending := rfl

/-! ### withdraw -/

@[simp] theorem State.withdraw_win (s : State) (who : Claimant) : (s.withdraw who).win = s.win := rfl
@[simp] theorem State.withdraw_eng (s : State) (who : Claimant) : (s.withdraw who).eng = s.eng := rfl
@[simp] theorem State.withdraw_idx (s : State) (who : Claimant) : (s.withdraw who).idx = s.idx := rfl
@[simp] theorem State.withdraw_classes (s : State) (who : Claimant) : (s.withdraw who).classes = s.classes := rfl
@[simp] theorem State.withdraw_space (s : State) (who : Claimant) : (s.withdraw who).space = s.space := rfl
@[simp] theorem State.withdraw_rcl (s : State) (who : Claimant) : (s.withdraw who).rcl = s.rcl := rfl
@[simp] theorem State.withdraw_faults (s : State) (who : Claimant) : (s.withdraw who).faults = s.faults := rfl
@[simp] theorem State.withdraw_mnt (s : State) (who : Claimant) : (s.withdraw who).mnt = s.mnt := rfl
@[simp] theorem State.withdraw_halted (s : State) (who : Claimant) : (s.withdraw who).halted = s.halted := rfl
@[simp] theorem State.withdraw_resetLow (s : State) (who : Claimant) : (s.withdraw who).resetLow = s.resetLow := rfl
@[simp] theorem State.withdraw_flash (s : State) (who : Claimant) : (s.withdraw who).flash = s.flash := rfl
@[simp] theorem State.withdraw_agenda (s : State) (who : Claimant) : (s.withdraw who).agenda = s.agenda := rfl
@[simp] theorem State.withdraw_pending (s : State) (who : Claimant) : (s.withdraw who).pending = s.pending := rfl

/-! ### askStop -/

@[simp] theorem State.askStop_win (s : State) (who : Claimant) : (s.askStop who).win = s.win := rfl
@[simp] theorem State.askStop_eng (s : State) (who : Claimant) : (s.askStop who).eng = s.eng := rfl
@[simp] theorem State.askStop_idx (s : State) (who : Claimant) : (s.askStop who).idx = s.idx := rfl
@[simp] theorem State.askStop_classes (s : State) (who : Claimant) : (s.askStop who).classes = s.classes := rfl
@[simp] theorem State.askStop_space (s : State) (who : Claimant) : (s.askStop who).space = s.space := rfl
@[simp] theorem State.askStop_rcl (s : State) (who : Claimant) : (s.askStop who).rcl = s.rcl := rfl
@[simp] theorem State.askStop_faults (s : State) (who : Claimant) : (s.askStop who).faults = s.faults := rfl
@[simp] theorem State.askStop_mnt (s : State) (who : Claimant) : (s.askStop who).mnt = s.mnt := rfl
@[simp] theorem State.askStop_halted (s : State) (who : Claimant) : (s.askStop who).halted = s.halted := rfl
@[simp] theorem State.askStop_resetLow (s : State) (who : Claimant) : (s.askStop who).resetLow = s.resetLow := rfl
@[simp] theorem State.askStop_flash (s : State) (who : Claimant) : (s.askStop who).flash = s.flash := rfl
@[simp] theorem State.askStop_agenda (s : State) (who : Claimant) : (s.askStop who).agenda = s.agenda := rfl
@[simp] theorem State.askStop_pending (s : State) (who : Claimant) : (s.askStop who).pending = s.pending := rfl

/-! ### reclaimHalt -/

@[simp] theorem State.reclaimHalt_win (s : State) : s.reclaimHalt.win = s.win := rfl
@[simp] theorem State.reclaimHalt_eng (s : State) : s.reclaimHalt.eng = s.eng := rfl
@[simp] theorem State.reclaimHalt_idx (s : State) : s.reclaimHalt.idx = s.idx := rfl
@[simp] theorem State.reclaimHalt_classes (s : State) : s.reclaimHalt.classes = s.classes := rfl
@[simp] theorem State.reclaimHalt_space (s : State) : s.reclaimHalt.space = s.space := rfl
@[simp] theorem State.reclaimHalt_pl0 (s : State) : s.reclaimHalt.pl0 = s.pl0 := rfl
@[simp] theorem State.reclaimHalt_pl1 (s : State) : s.reclaimHalt.pl1 = s.pl1 := rfl
@[simp] theorem State.reclaimHalt_faults (s : State) : s.reclaimHalt.faults = s.faults := rfl
@[simp] theorem State.reclaimHalt_mnt (s : State) : s.reclaimHalt.mnt = s.mnt := rfl
@[simp] theorem State.reclaimHalt_halted (s : State) : s.reclaimHalt.halted = s.halted := rfl
@[simp] theorem State.reclaimHalt_resetLow (s : State) : s.reclaimHalt.resetLow = s.resetLow := rfl
@[simp] theorem State.reclaimHalt_flash (s : State) : s.reclaimHalt.flash = s.flash := rfl
@[simp] theorem State.reclaimHalt_agenda (s : State) : s.reclaimHalt.agenda = s.agenda := rfl
@[simp] theorem State.reclaimHalt_pending (s : State) : s.reclaimHalt.pending = s.pending := rfl

/-! ### setPlane -/

@[simp] theorem State.setPlane_win (s : State) (p : PlaneId) (x : Plane) : (s.setPlane p x).win = s.win := by cases p <;> rfl
@[simp] theorem State.setPlane_eng (s : State) (p : PlaneId) (x : Plane) : (s.setPlane p x).eng = s.eng := by cases p <;> rfl
@[simp] theorem State.setPlane_idx (s : State) (p : PlaneId) (x : Plane) : (s.setPlane p x).idx = s.idx := by cases p <;> rfl
@[simp] theorem State.setPlane_classes (s : State) (p : PlaneId) (x : Plane) : (s.setPlane p x).classes = s.classes := by cases p <;> rfl
@[simp] theorem State.setPlane_space (s : State) (p : PlaneId) (x : Plane) : (s.setPlane p x).space = s.space := by cases p <;> rfl
@[simp] theorem State.setPlane_rcl (s : State) (p : PlaneId) (x : Plane) : (s.setPlane p x).rcl = s.rcl := by cases p <;> rfl
@[simp] theorem State.setPlane_faults (s : State) (p : PlaneId) (x : Plane) : (s.setPlane p x).faults = s.faults := by cases p <;> rfl
@[simp] theorem State.setPlane_mnt (s : State) (p : PlaneId) (x : Plane) : (s.setPlane p x).mnt = s.mnt := by cases p <;> rfl
@[simp] theorem State.setPlane_halted (s : State) (p : PlaneId) (x : Plane) : (s.setPlane p x).halted = s.halted := by cases p <;> rfl
@[simp] theorem State.setPlane_resetLow (s : State) (p : PlaneId) (x : Plane) : (s.setPlane p x).resetLow = s.resetLow := by cases p <;> rfl
@[simp] theorem State.setPlane_flash (s : State) (p : PlaneId) (x : Plane) : (s.setPlane p x).flash = s.flash := by cases p <;> rfl
@[simp] theorem State.setPlane_agenda (s : State) (p : PlaneId) (x : Plane) : (s.setPlane p x).agenda = s.agenda := by cases p <;> rfl
@[simp] theorem State.setPlane_pending (s : State) (p : PlaneId) (x : Plane) : (s.setPlane p x).pending = s.pending := by cases p <;> rfl

/-! ### What the updates set -/

@[simp] theorem State.signal_agenda (s : State) (x : Signal) : (s.signal x).agenda = s.agenda ++ [x] := rfl
@[simp] theorem State.setReq_req (s : State) (r : Request) : (s.setReq r).eng.req = some r := rfl
@[simp] theorem State.setReq_store (s : State) (r : Request) : (s.setReq r).eng.store = s.eng.store := rfl
@[simp] theorem State.clearReq_req (s : State) : s.clearReq.eng.req = none := rfl
@[simp] theorem State.clearReq_store (s : State) : s.clearReq.eng.store = s.eng.store := rfl
@[simp] theorem State.setAct_act (s : State) (a : ReclaimAct) : (s.setAct a).rcl.act = a := rfl
@[simp] theorem State.setMount_mnt (s : State) (m : Mount) : (s.setMount m).mnt = m := rfl
@[simp] theorem State.drive_busOut (s : State) (b : Byte) : (s.drive b).win.busOut = b := rfl
@[simp] theorem State.drive_slots (s : State) (b : Byte) : (s.drive b).win.slots = s.win.slots := rfl
@[simp] theorem State.raise_iflag (s : State) (f : IntFlag) : (s.raise f).win.iflag = s.win.iflag ||| f.mask := rfl
@[simp] theorem State.raise_slots (s : State) (f : IntFlag) : (s.raise f).win.slots = s.win.slots := rfl
@[simp] theorem State.raise_queue (s : State) (f : IntFlag) : (s.raise f).win.queue = s.win.queue := rfl
@[simp] theorem State.windowFault_slots (s : State) (f : WindowFault) : (s.windowFault f).win.slots = s.win.slots := rfl
@[simp] theorem State.windowFault_queue (s : State) (f : WindowFault) : (s.windowFault f).win.queue = s.win.queue := rfl
@[simp] theorem State.windowFault_fault (s : State) (f : WindowFault) : (s.windowFault f).win.fault = f := rfl
@[simp] theorem State.setSlot_queue (s : State) (n : SlotNo) (x : Slot) : (s.setSlot n x).win.queue = s.win.queue := rfl
@[simp] theorem State.setSlot_sel (s : State) (n : SlotNo) (x : Slot) : (s.setSlot n x).win.sel = s.win.sel := rfl
@[simp] theorem State.setSlot_iflag (s : State) (n : SlotNo) (x : Slot) : (s.setSlot n x).win.iflag = s.win.iflag := rfl

/-- A slot set reads back, and the others are as they were. -/
theorem State.slot_setSlot (s : State) (n k : SlotNo) (x : Slot) : (s.setSlot n x).slot k = if n = k then x else s.slot k := by
  simp only [State.slot, State.setSlot, Fin.getElem_fin, Vector.getElem_set, Fin.ext_iff]

@[simp] theorem State.slot_setSlot_same (s : State) (n : SlotNo) (x : Slot) : (s.setSlot n x).slot n = x := by
  rw [State.slot_setSlot, if_pos rfl]

theorem State.slot_setSlot_ne (s : State) {n k : SlotNo} (h : n ≠ k) (x : Slot) : (s.setSlot n x).slot k = s.slot k := by
  rw [State.slot_setSlot, if_neg h]

/-- The selected slot set reads back. -/
@[simp] theorem State.selected_setSelected (s : State) (x : Slot) : (s.setSelected x).selected = x :=
  State.slot_setSlot_same s s.win.sel x

/-- A sector table entry set reads back, and the others are as they were. -/
theorem State.sector_putSector (s : State) (n k : SectorNo) (e : SectorEntry) :
    (s.putSector n e).sector k = if n = k then e else s.sector k := by
  simp only [State.sector, State.putSector, Fin.getElem_fin, Vector.getElem_set, Fin.ext_iff]

/-- What follows a change of the BLANK count leaves the table as it is. -/
@[simp] theorem State.blankMoved_space (s : State) (n : Nat) : (s.blankMoved n).space = s.space := by
  unfold State.blankMoved
  dsimp only
  repeat' split
  all_goals rfl

/-- Setting a sector table entry changes that entry and no other (R58). -/
theorem State.sector_setSector (s : State) (n k : SectorNo) (e : SectorEntry) :
    (s.setSector n e).sector k = if n = k then e else s.sector k := by
  have : (s.setSector n e).sector k = (s.putSector n e).sector k := by
    simp only [State.sector, State.setSector, State.blankMoved_space]
  rw [this, State.sector_putSector]

/-- A change of the store state: to the value asked for, unless the store is HALTED (R7, R10, R190). -/
theorem State.setStore_store (s : State) (x : StoreState) :
    (s.setStore x).eng.store = if s.eng.store = .halted then .halted else x := by
  unfold State.setStore
  split
  · next h =>
    rcases h with h | h
    · split
      · next hh => exact hh
      · exact h
    · rw [if_pos h, h]
  · next h =>
    rw [if_neg fun hh => h (.inr hh)]
    dsimp only
    split <;> rfl

/-! ### The ACTIVE request under the updates that test the state -/

@[simp] theorem State.setStore_req (s : State) (x : StoreState) : (s.setStore x).eng.req = s.eng.req := by
  unfold State.setStore
  split
  · rfl
  · dsimp only
    split <;> rfl

@[simp] theorem State.declareReadOnly_req (s : State) : s.declareReadOnly.eng.req = s.eng.req := by
  unfold State.declareReadOnly
  split
  · exact s.setStore_req _
  · rfl

@[simp] theorem State.blankMoved_eng (s : State) (n : Nat) : (s.blankMoved n).eng = s.eng := by
  unfold State.blankMoved
  dsimp only
  repeat' split
  all_goals rfl

@[simp] theorem State.setSector_eng (s : State) (n : SectorNo) (e : SectorEntry) : (s.setSector n e).eng = s.eng :=
  State.blankMoved_eng _ _

@[simp] theorem State.closeSector_eng (s : State) (n : SectorNo) : (s.closeSector n).eng = s.eng := s.setSector_eng _ _
@[simp] theorem State.placeRecord_eng (s : State) (n : SectorNo) (f : Nat) : (s.placeRecord n f).eng = s.eng := s.setSector_eng _ _
@[simp] theorem State.givePlaceBack_eng (s : State) (p : Place) (f : Nat) : (s.givePlaceBack p f).eng = s.eng := s.setSector_eng _ _
@[simp] theorem State.recordLive_eng (s : State) (n : SectorNo) (f : Nat) : (s.recordLive n f).eng = s.eng := s.setSector_eng _ _
@[simp] theorem State.recordRetired_eng (s : State) (n : SectorNo) (f : Nat) : (s.recordRetired n f).eng = s.eng := s.setSector_eng _ _
@[simp] theorem State.sectorFaulted_eng (s : State) (n : SectorNo) : (s.sectorFaulted n).eng = s.eng := s.setSector_eng _ _
@[simp] theorem State.sectorOut_eng (s : State) (n : SectorNo) (x : SectorState) : (s.sectorOut n x).eng = s.eng := s.setSector_eng _ _
@[simp] theorem State.sectorHeaded_eng (s : State) (n : SectorNo) : (s.sectorHeaded n).eng = s.eng := s.setSector_eng _ _
@[simp] theorem State.sectorErased_eng (s : State) (n : SectorNo) : (s.sectorErased n).eng = s.eng := s.setSector_eng _ _
@[simp] theorem State.sectorOpened_eng (s : State) (n : SectorNo) (x : SectorState) (q : Nat) : (s.sectorOpened n x q).eng = s.eng :=
  s.setSector_eng _ _
@[simp] theorem State.openingFaulted_eng (s : State) (n : SectorNo) : (s.openingFaulted n).eng = s.eng := s.setSector_eng _ _

@[simp] theorem State.retireSector_req (s : State) (n : SectorNo) : (s.retireSector n).eng.req = s.eng.req := by
  unfold State.retireSector
  dsimp only
  split <;> simp

@[simp] theorem State.identityFaulted_req (s : State) (n : SectorNo) : (s.identityFaulted n).eng.req = s.eng.req := by
  unfold State.identityFaulted
  simp

@[simp] theorem State.releaseHold_eng (s : State) : s.releaseHold.eng = s.eng := by
  unfold State.releaseHold
  split <;> rfl

@[simp] theorem State.takeDescriptor_eng (s : State) (j : WriteJob) : (s.takeDescriptor j).eng = s.eng := by
  unfold State.takeDescriptor
  dsimp only
  split <;> rfl

@[simp] theorem State.withdrawStop_eng (s : State) : s.withdrawStop.eng = s.eng := rfl

end Sys2Proof.Machine
end

