-- ==== Sys2Proof/Laws/Agenda.lean ====
section
/-! SUPPORT. How the agenda is emptied, and what the engine does on going to the head of the queue. -/

namespace Sys2Proof.Machine

theorem State.drain_nil {s : State} (h : s.agenda = []) (k : Nat) : s.drain k = s := by
  cases k with
  | zero => rfl
  | succ k => simp only [State.drain, h]

theorem State.drain_cons {s : State} {x : Signal} {l : List Signal} (h : s.agenda = x :: l) (k : Nat) :
    s.drain (k + 1) = ({ s with agenda := l }.deliver x).drain k := by
  simp only [State.drain, h]

theorem State.settle_nil {s : State} (h : s.agenda = []) : s.settle = s.startTest := by
  rw [State.settle, State.drain_nil h]

theorem State.takeHead_agenda (s : State) : s.takeHead.agenda = s.agenda := by
  unfold State.takeHead
  split
  · split <;> rfl
  · rfl

/-- With the taking of the head as the only signal, emptying the agenda is the taking. -/
theorem State.drain_take {s : State} (h : s.agenda = [.take]) (k : Nat) :
    s.drain (k + 1) = { s with agenda := [] }.takeHead := by
  rw [State.drain_cons h, State.deliver, State.drain_nil (by rw [State.takeHead_agenda])]

/-- One answer settled: it is delivered first, and what it tells others follows. -/
theorem State.settle_answer {s : State} (h : s.agenda = []) (who : Claimant) (a : Answer) :
    (s.signal (.answer who a)).settle = ((s.deliver (.answer who a)).drain 255).startTest := by
  rw [State.settle, settleFuel, State.drain_cons (x := .answer who a) (l := []) (by simp [State.signal, h])]
  congr 3
  change { s with agenda := [] } = s
  rw [← h]

/-- One signal that raises no other. -/
theorem State.settle_one {s t : State} {x : Signal} (h : s.agenda = [x]) (ht : { s with agenda := [] }.deliver x = t)
    (hq : t.agenda = []) : s.settle = t.startTest := by
  rw [State.settle, settleFuel, State.drain_cons h, ht, State.drain_nil hq]

theorem State.startTest_eq (s : State) : ∃ x, s.startTest = { s with rcl := x } ∧
    (x = s.rcl ∨ (s.rcl.phase = .idle ∧ x = { s.rcl with phase := .select, act := .select })) := by
  unfold State.startTest
  split
  · rename_i h
    refine ⟨_, rfl, .inr ⟨?_, rfl⟩⟩
    simp only [State.mayStart, Bool.and_eq_true, beq_iff_eq] at h
    exact h.1.1.1
  · exact ⟨s.rcl, rfl, .inl rfl⟩

theorem State.releaseHold_none {s : State} (h : s.idx.hold = none) : s.releaseHold = s := by
  simp only [State.releaseHold, h]

/-- The ending step with no hold in hand. -/
theorem State.endRequest_eq {s : State} {r : Request} {code : ResultCode} {f : ResultFields} (h : s.idx.hold = none)
    (hv : (s.slot r.slot).hidden = false) :
    s.endRequest r code f =
      (((s.setSlot r.slot ((s.slot r.slot).finish code f r.flags)).raise (.slotDone r.slot)).clearReq.dropWaiter).signal .take := by
  rw [State.endRequest]
  simp only [hv, Bool.false_eq_true, if_false]
  rw [State.releaseHold_none (by exact h)]

/-- The ending of a hidden slot with no hold in hand. -/
theorem State.endRequest_hidden {s : State} {r : Request} {code : ResultCode} {f : ResultFields} (h : s.idx.hold = none)
    (hv : (s.slot r.slot).hidden = true) :
    s.endRequest r code f =
      ((s.setSlot r.slot { s.slot r.slot with state := .free, hidden := false, ptr := 0 }).clearReq.dropWaiter).signal .take := by
  rw [State.endRequest]
  simp only [hv, if_true]
  rw [State.releaseHold_none (by exact h)]

/-! ### The end of a request, said once -/

theorem Window.HostKept.refl (w : Window) : w.HostKept w := ⟨rfl, rfl, rfl, rfl, rfl, rfl, rfl, rfl⟩

theorem State.Kept.refl (s : State) : s.Kept s :=
  ⟨.refl _, rfl, rfl, rfl, rfl, rfl, rfl, .inl rfl, rfl, rfl, rfl, rfl, rfl, rfl, rfl, rfl, rfl⟩

theorem State.startTest_kept (s : State) : s.Kept s.startTest := by
  obtain ⟨x, h, hx⟩ := s.startTest_eq
  rw [h]
  exact ⟨.refl _, rfl, rfl, rfl, rfl, rfl, rfl, hx, rfl, rfl, rfl, rfl, rfl, rfl, rfl, rfl, rfl⟩

theorem State.startTest_slot (s : State) (n : SlotNo) : s.startTest.slot n = s.slot n := by
  obtain ⟨x, h, -⟩ := s.startTest_eq
  rw [h]; rfl

theorem State.startTest_win (s : State) : s.startTest.win = s.win := by
  obtain ⟨x, h, -⟩ := s.startTest_eq
  rw [h]

theorem State.startTest_eng (s : State) : s.startTest.eng = s.eng := by
  obtain ⟨x, h, -⟩ := s.startTest_eq
  rw [h]

theorem State.slot_set (s : State) (n m : SlotNo) (x : Slot) : (s.setSlot n x).slot m = if m = n then x else s.slot m := by
  simp only [State.slot, State.setSlot, Fin.getElem_fin, Vector.getElem_set]
  by_cases h : m = n
  · simp [h]
  · rw [if_neg h, if_neg]
    exact fun k => h (Fin.ext k.symm)

/-- What the taking of the head of the queue does where the engine is free. -/
theorem State.takeHead_wentOn {s t : State} {n : SlotNo} (hr : t.eng.req = none) (hs : t.eng.store = s.eng.store)
    (hq : t.win.queue = s.win.queue) (hn : n ∉ s.win.queue) (ho : ∀ m, m ≠ n → t.slot m = s.slot m) :
    s.WentOn t.takeHead n ∧ t.takeHead.slot n = t.slot n ∧ t.takeHead.win.iflag = t.win.iflag ∧ t.Kept t.takeHead := by
  unfold State.takeHead
  rw [hr, hq]
  rcases hc : s.win.queue with _ | ⟨m, rest⟩
  · refine ⟨⟨?_, ?_, ?_⟩, rfl, rfl, .refl _⟩
    · rw [hc, hq, hc]; simp
    · simpa [hc] using ho
    · simp [hc, hr]
  · dsimp only
    rw [hs]
    have hm : m ≠ n := by rintro rfl; exact hn (by rw [hc]; exact List.mem_cons_self)
    by_cases h : s.eng.store.takesSlots = true
    · rw [if_pos h]
      refine ⟨⟨?_, fun k hk => ?_, ?_⟩, ?_, rfl, ⟨⟨rfl, rfl, rfl, rfl, rfl, rfl, rfl, rfl⟩, ?_, rfl, rfl, rfl, rfl, rfl, .inl rfl, rfl,
        rfl, rfl, rfl, rfl, rfl, rfl, rfl, rfl⟩⟩
      · rw [if_pos h, hc]; rfl
      · change (t.setSlot m _).slot k = _
        rw [State.slot_set, hc, ho k hk, ho m hm]
        by_cases hk' : k = m
        · simp [h, hk']
        · rw [if_neg hk', if_neg]
          rintro ⟨-, he⟩
          exact hk' (by simpa using he.symm)
      · rw [if_pos h, hc]
        simp only [List.head?_cons, Option.map_some, ho m hm]
        rfl
      · change (t.setSlot m _).slot n = _
        rw [State.slot_set, if_neg (Ne.symm hm)]
      · rfl
    · simp only [h, if_false, Bool.false_eq_true]
      refine ⟨⟨?_, fun k hk => ?_, ?_⟩, trivial, trivial, .refl _⟩
      · rw [if_neg h, hq]
      · rw [if_neg (by rintro ⟨h', -⟩; exact h h'), ho k hk]
      · rw [if_neg h, hr]

/-- After the ending step: the request of a slot that is not hidden has ended and the engine goes on. -/
theorem State.endRequest_drain_ended {s : State} {r : Request} {code : ResultCode} {f : ResultFields} (ha : s.agenda = [])
    (hh : s.idx.hold = none) (hw : s.idx.waiter = none) (hv : (s.slot r.slot).hidden = false) (hn : r.slot ∉ s.win.queue) (k : Nat) :
    s.Ended ((s.endRequest r code f).drain (k + 1)).startTest r.slot code f r.flags := by
  rw [State.endRequest_eq hh hv]
  generalize hu : { (((s.setSlot r.slot ((s.slot r.slot).finish code f r.flags)).raise (.slotDone r.slot)).clearReq.dropWaiter) with
    agenda := [] } = u
  have hse : ((((s.setSlot r.slot ((s.slot r.slot).finish code f r.flags)).raise (.slotDone r.slot)).clearReq.dropWaiter).signal
      .take).drain (k + 1) = u.takeHead := by
    rw [State.drain_take (by simp [State.signal, State.dropWaiter, State.clearReq, State.raise, State.setSlot, ha]), ← hu]
    rfl
  have hus : ∀ m, u.slot m = if m = r.slot then (s.slot r.slot).finish code f r.flags else s.slot m := by
    intro m
    rw [← hu, ← State.slot_set]; rfl
  obtain ⟨h1, h2, h3, h4⟩ := State.takeHead_wentOn (s := s) (t := u) (n := r.slot) (by rw [← hu]; rfl) (by rw [← hu]; rfl)
    (by rw [← hu]; rfl) hn (fun m hm => by rw [hus, if_neg hm])
  have hidx : s.idx = { s.idx with waiter := none } := by rw [← hw]
  have hk : s.Kept u := by
    rw [← hu]
    exact ⟨⟨rfl, rfl, rfl, rfl, rfl, rfl, rfl, rfl⟩, rfl, rfl, rfl, hidx.symm, rfl, rfl, .inl rfl, rfl, rfl, rfl, rfl, rfl, rfl, rfl, ha.symm, rfl⟩
  have hk2 := u.takeHead.startTest_kept
  rw [hse]
  refine ⟨?_, ?_, ⟨?_, fun m hm => ?_, ?_⟩, ?_⟩
  · rw [State.startTest_slot, h2, hus, if_pos rfl]; rfl
  · rw [State.startTest_win, h3, ← hu]; rfl
  · rw [State.startTest_win]; exact h1.queue
  · rw [State.startTest_slot]; exact h1.others m hm
  · rw [State.startTest_eng]; exact h1.next
  · obtain ⟨a1, a2, a3, a4, a5, a6, a7, a8, a9, a10, a11, a12, a13, a14, a15, a16, a17⟩ := hk
    obtain ⟨b1, b2, b3, b4, b5, b6, b7, b8, b9, b10, b11, b12, b13, b14, b15, b16, b17⟩ := h4
    obtain ⟨c1, c2, c3, c4, c5, c6, c7, c8, c9, c10, c11, c12, c13, c14, c15, c16, c17⟩ := hk2
    have hr : u.takeHead.rcl = s.rcl := by
      have : u.takeHead.rcl = u.rcl := by
        unfold State.takeHead
        split
        · split <;> rfl
        · rfl
      rw [this, ← hu]; rfl
    refine ⟨⟨?_, ?_, ?_, ?_, ?_, ?_, ?_, ?_⟩, by rw [c2, b2, a2], by rw [c3, b3, a3], by rw [c4, b4, a4], by rw [c5, b5, a5],
      by rw [c6, b6, a6], by rw [c7, b7, a7], hr ▸ c8, by rw [c9, b9, a9], by rw [c10, b10, a10], by rw [c11, b11, a11],
      by rw [c12, b12, a12], by rw [c13, b13, a13], by rw [c14, b14, a14], by rw [c15, b15, a15], by rw [c16, b16, a16],
      by rw [c17, b17, a17]⟩
    · rw [c1.sel, b1.sel, a1.sel]
    · rw [c1.imask, b1.imask, a1.imask]
    · rw [c1.fault, b1.fault, a1.fault]
    · rw [c1.lowmk, b1.lowmk, a1.lowmk]
    · rw [c1.suslim, b1.suslim, a1.suslim]
    · rw [c1.wearsp, b1.wearsp, a1.wearsp]
    · rw [c1.mode, b1.mode, a1.mode]
    · rw [c1.busOut, b1.busOut, a1.busOut]

/-- Settling after the ending step. -/
theorem State.endRequest_ended {s : State} {r : Request} {code : ResultCode} {f : ResultFields} (ha : s.agenda = [])
    (hh : s.idx.hold = none) (hw : s.idx.waiter = none) (hv : (s.slot r.slot).hidden = false) (hn : r.slot ∉ s.win.queue) :
    s.Ended (s.endRequest r code f).settle r.slot code f r.flags :=
  State.endRequest_drain_ended ha hh hw hv hn 255

/-- With a hold in hand and no reclaim step waiting for it, the ending step releases it first. -/
theorem State.endRequest_drain_hold {s : State} {r : Request} {code : ResultCode} {f : ResultFields} {k : Nat} (ha : s.agenda = [])
    (hh : s.idx.hold = some k) (hr : s.rcl.act ≠ .heldWait) (n : Nat) :
    (s.endRequest r code f).drain (n + 2) = ({ s with idx := { s.idx with hold := none } }.endRequest r code f).drain (n + 1) := by
  rw [State.drain_cons (x := .holdReleased) (l := [.take])]
  · congr 1
    have : ∀ t : State, t.rcl.act ≠ .heldWait → t.deliver .holdReleased = t := by
      intro t ht
      unfold State.deliver State.reclaimHoldReleased
      dsimp only
      split
      · next h _ => exact absurd h ht
      · rfl
    rw [this]
    · by_cases hv : (s.slot r.slot).hidden = true
      · rw [State.endRequest_hidden (s := { s with idx := { s.idx with hold := none } }) rfl hv]
        unfold State.endRequest State.releaseHold State.signal
        simp only [State.dropWaiter, State.clearReq, State.setSlot, hv, if_true, hh, ha]
        rfl
      · rw [State.endRequest_eq (s := { s with idx := { s.idx with hold := none } }) rfl (Bool.eq_false_iff.2 hv)]
        unfold State.endRequest State.releaseHold State.signal
        simp only [State.dropWaiter, State.clearReq, State.setSlot, State.raise, hv, if_false, Bool.false_eq_true, hh, ha]
        rfl
    · unfold State.endRequest State.releaseHold State.signal
      simp only [State.dropWaiter, State.clearReq, State.setSlot, State.raise]
      by_cases hv : (s.slot r.slot).hidden = true <;> simp only [hv, if_true, if_false, Bool.false_eq_true, hh] <;> exact hr
  · unfold State.endRequest State.releaseHold State.signal
    simp only [State.dropWaiter, State.clearReq, State.setSlot, State.raise]
    by_cases hv : (s.slot r.slot).hidden = true <;> simp only [hv, if_true, if_false, Bool.false_eq_true, hh, ha] <;> rfl

/-- After the ending step of a request that holds a key. -/
theorem State.endRequest_drain_ended_hold {s : State} {r : Request} {code : ResultCode} {f : ResultFields} {k : Nat} (ha : s.agenda = [])
    (hh : s.idx.hold = some k) (hr : s.rcl.act ≠ .heldWait) (hw : s.idx.waiter = none) (hv : (s.slot r.slot).hidden = false)
    (hn : r.slot ∉ s.win.queue) (n : Nat) :
    ({ s with idx := { s.idx with hold := none } } : State).Ended ((s.endRequest r code f).drain (n + 2)).startTest r.slot code f
      r.flags := by
  rw [State.endRequest_drain_hold ha hh hr]
  exact State.endRequest_drain_ended (s := { s with idx := { s.idx with hold := none } }) ha rfl hw hv hn n

end Sys2Proof.Machine
end

