-- ==== Sys2Proof/Laws/Cells.lean ====
section
/-! SUPPORT. The byte stores: a read after a write gives the byte written, every other address reads as before, and every write keeps
the canonical form. -/

namespace Sys2Proof.Machine

variable {d : Byte} {m : List Host.Cell} {a b : Nat} {v : Byte}

/-! ### One byte -/

theorem cellGet_of_not_mem : ∀ {m : List Host.Cell}, (∀ c ∈ m, c.1 ≠ a) → cellGet d m a = d
  | [], _ => rfl
  | c :: m, h => by
    simp only [cellGet, if_neg (h c (List.mem_cons_self ..))]
    exact cellGet_of_not_mem fun c' hc => h c' (List.mem_cons_of_mem _ hc)

theorem cellGet_filter_ne : ∀ (m : List Host.Cell), b ≠ a → cellGet d (m.filter (fun c => c.1 != a)) b = cellGet d m b
  | [], _ => rfl
  | c :: m, h => by
    by_cases hc : c.1 = a
    · simp [hc, cellGet, h.symm, cellGet_filter_ne m h]
    · simp [hc, cellGet, cellGet_filter_ne m h]

theorem cellGet_insert_same : ∀ (m : List Host.Cell), (∀ c ∈ m, c.1 ≠ a) → cellGet d (cellInsert (a, v) m) a = v
  | [], _ => by simp [cellInsert, cellGet]
  | c :: m, h => by
    have hc := h c (List.mem_cons_self ..)
    simp only [cellInsert]
    split
    · simp [cellGet]
    · simp [cellGet, hc, cellGet_insert_same m fun c' hc' => h c' (List.mem_cons_of_mem _ hc')]

theorem cellGet_insert_ne : ∀ (m : List Host.Cell), b ≠ a → cellGet d (cellInsert (a, v) m) b = cellGet d m b
  | [], h => by simp [cellInsert, cellGet, h.symm]
  | c :: m, h => by
    simp only [cellInsert]
    split
    · simp [cellGet, h.symm]
    · simp [cellGet, cellGet_insert_ne m h]

/-- A byte written reads back. -/
theorem cellGet_cellSet_same (d : Byte) (m : List Host.Cell) (a : Nat) (v : Byte) : cellGet d (cellSet d m a v) a = v := by
  have h : ∀ c ∈ m.filter (fun c => c.1 != a), c.1 ≠ a := by simp
  simp only [cellSet]
  split
  · next hv => rw [cellGet_of_not_mem h, hv]
  · exact cellGet_insert_same _ h

/-- Every other address reads as before. -/
theorem cellGet_cellSet_ne (d : Byte) (m : List Host.Cell) (v : Byte) (h : b ≠ a) :
    cellGet d (cellSet d m a v) b = cellGet d m b := by
  simp only [cellSet]
  split
  · exact cellGet_filter_ne m h
  · rw [cellGet_insert_ne _ h, cellGet_filter_ne m h]

/-! ### Runs of bytes -/

/-- Outside the run written every address reads as before. -/
theorem cellGet_cellWrite_out (d : Byte) : ∀ (bs : List Byte) (m : List Host.Cell) (a b : Nat),
    b < a ∨ a + bs.length ≤ b → cellGet d (cellWrite d m a bs) b = cellGet d m b
  | [], _, _, _, _ => rfl
  | v :: bs, m, a, b, h => by
    simp only [List.length_cons] at h
    rw [cellWrite, cellGet_cellWrite_out d bs _ _ _ (by omega), cellGet_cellSet_ne d m v (by omega)]

/-- Within the run written each address reads the byte given for it. -/
theorem cellGet_cellWrite_in (d : Byte) : ∀ (bs : List Byte) (m : List Host.Cell) (a i : Nat) (h : i < bs.length),
    cellGet d (cellWrite d m a bs) (a + i) = bs[i]
  | v :: bs, m, a, 0, _ => by
    show cellGet d (cellWrite d (cellSet d m a v) (a + 1) bs) a = v
    rw [cellGet_cellWrite_out d bs _ _ _ (by omega), cellGet_cellSet_same]
  | v :: bs, m, a, i + 1, h => by
    have := cellGet_cellWrite_in d bs (cellSet d m a v) (a + 1) i (by simpa using h)
    rw [cellWrite, show a + (i + 1) = a + 1 + i by omega, this]
    rfl

@[simp] theorem length_cellRead (d : Byte) (m : List Host.Cell) : ∀ (n a : Nat), (cellRead d m a n).length = n
  | 0, _ => rfl
  | n + 1, a => by simp [cellRead, length_cellRead d m n]

/-- A run read holds at each place the byte of its address. -/
theorem getElem_cellRead (d : Byte) (m : List Host.Cell) : ∀ (n a i : Nat) (h : i < (cellRead d m a n).length),
    (cellRead d m a n)[i] = cellGet d m (a + i)
  | 0, _, _, h => by simp [cellRead] at h
  | n + 1, a, 0, _ => by simp [cellRead]
  | n + 1, a, i + 1, h => by
    have := getElem_cellRead d m n (a + 1) i (by simpa [cellRead] using h)
    simp only [cellRead, List.getElem_cons_succ, this]
    congr 1
    omega

/-- A run read depends on its own addresses alone. -/
theorem cellRead_congr {d : Byte} {m m' : List Host.Cell} : ∀ {n a : Nat},
    (∀ b, a ≤ b → b < a + n → cellGet d m b = cellGet d m' b) → cellRead d m a n = cellRead d m' a n
  | 0, _, _ => rfl
  | n + 1, a, h => by
    rw [cellRead, cellRead, h a (by omega) (by omega), cellRead_congr fun b h1 h2 => h b (by omega) (by omega)]

/-- A run written reads back. -/
theorem cellRead_cellWrite (d : Byte) (m : List Host.Cell) (a : Nat) (bs : List Byte) :
    cellRead d (cellWrite d m a bs) a bs.length = bs := by
  apply List.ext_getElem (by simp)
  intro i h1 h2
  rw [getElem_cellRead, cellGet_cellWrite_in]

/-! ### The canonical form -/

/-- The canonical form, said of the whole list. -/
theorem cellsWf_iff (d : Byte) : ∀ (m : List Host.Cell),
    cellsWf d m = true ↔ m.Pairwise (fun c e => c.1 < e.1) ∧ ∀ c ∈ m, c.2 ≠ d
  | [] => by simp [cellsWf]
  | [c] => by simp [cellsWf]
  | c :: e :: m => by
    have ih := cellsWf_iff d (e :: m)
    simp only [cellsWf, Bool.and_eq_true, decide_eq_true_eq, bne_iff_ne, ih]
    constructor
    · rintro ⟨⟨h1, h2⟩, h3, h4⟩
      refine ⟨List.pairwise_cons.2 ⟨?_, h3⟩, ?_⟩
      · intro x hx
        rcases List.mem_cons.1 hx with rfl | hx
        · exact h1
        · exact Nat.lt_trans h1 ((List.pairwise_cons.1 h3).1 x hx)
      · intro x hx
        rcases List.mem_cons.1 hx with rfl | hx
        · exact h2
        · exact h4 x hx
    · rintro ⟨h1, h2⟩
      have h1 := List.pairwise_cons.1 h1
      exact ⟨⟨h1.1 e (List.mem_cons_self ..), h2 c (List.mem_cons_self ..)⟩, h1.2, fun x hx => h2 x (List.mem_cons_of_mem _ hx)⟩

theorem mem_cellInsert {c x : Host.Cell} : ∀ {m : List Host.Cell}, x ∈ cellInsert c m ↔ x = c ∨ x ∈ m
  | [] => by simp [cellInsert]
  | e :: m => by
    simp only [cellInsert]
    split
    · simp
    · simp [mem_cellInsert (m := m), or_left_comm]

theorem pairwise_cellInsert {c : Host.Cell} : ∀ {m : List Host.Cell}, m.Pairwise (fun c e => c.1 < e.1) →
    (∀ x ∈ m, x.1 ≠ c.1) → (cellInsert c m).Pairwise (fun c e => c.1 < e.1)
  | [], _, _ => by simp [cellInsert]
  | e :: m, hp, hn => by
    have hp' := List.pairwise_cons.1 hp
    simp only [cellInsert]
    split
    · next h =>
      refine List.pairwise_cons.2 ⟨fun x hx => ?_, hp⟩
      rcases List.mem_cons.1 hx with rfl | hx
      · exact h
      · exact Nat.lt_trans h (hp'.1 x hx)
    · next h =>
      refine List.pairwise_cons.2 ⟨fun x hx => ?_, pairwise_cellInsert hp'.2 fun x hx => hn x (List.mem_cons_of_mem _ hx)⟩
      rcases mem_cellInsert.1 hx with rfl | hx
      · have := hn e (List.mem_cons_self ..)
        omega
      · exact hp'.1 x hx

/-- A write keeps the canonical form. -/
theorem cellsWf_cellSet (h : cellsWf d m = true) (a : Nat) (v : Byte) : cellsWf d (cellSet d m a v) = true := by
  rw [cellsWf_iff] at h ⊢
  have hf : (m.filter (fun c => c.1 != a)).Pairwise (fun c e => c.1 < e.1) := h.1.filter _
  simp only [cellSet]
  split
  · exact ⟨hf, fun c hc => h.2 c (List.mem_of_mem_filter hc)⟩
  · next hv =>
    refine ⟨pairwise_cellInsert hf (by simp), fun c hc => ?_⟩
    rcases mem_cellInsert.1 hc with rfl | hc
    · exact hv
    · exact h.2 c (List.mem_of_mem_filter hc)

/-- A run written keeps the canonical form. -/
theorem cellsWf_cellWrite : ∀ (bs : List Byte) {m : List Host.Cell} (a : Nat), cellsWf d m = true →
    cellsWf d (cellWrite d m a bs) = true
  | [], _, _, h => h
  | v :: bs, _, a, h => cellsWf_cellWrite bs (a + 1) (cellsWf_cellSet h a v)

/-- Keeping only some of the cells keeps the canonical form. -/
theorem cellsWf_filter (p : Host.Cell → Bool) (h : cellsWf d m = true) : cellsWf d (m.filter p) = true := by
  rw [cellsWf_iff] at h ⊢
  exact ⟨h.1.filter _, fun c hc => h.2 c (List.mem_of_mem_filter hc)⟩

/-! ### Flash -/

theorem cellsWf_flashWrite {m : List Host.Cell} (n : SectorNo) (o : Nat) (bs : List Byte)
    (h : cellsWf Config.erasedByte m = true) : cellsWf Config.erasedByte (flashWrite m n o bs) = true :=
  cellsWf_cellWrite bs _ h

theorem cellsWf_flashErase {m : List Host.Cell} (n : SectorNo) (h : cellsWf Config.erasedByte m = true) :
    cellsWf Config.erasedByte (flashErase m n) = true := cellsWf_filter _ h

theorem cellsWf_flashLoad {m : List Host.Cell} (n : SectorNo) (left : List Host.Cell)
    (h : cellsWf Config.erasedByte m = true) : cellsWf Config.erasedByte (flashLoad m n left) = true := by
  have : ∀ (l : List Host.Cell) (f : List Host.Cell), cellsWf Config.erasedByte f = true → cellsWf Config.erasedByte
      (l.foldl (fun f c => if c.1 < Config.sectorSize then cellSet Config.erasedByte f (flashAddr n c.1) c.2 else f) f) = true := by
    intro l
    induction l with
    | nil => exact fun f hf => hf
    | cons c l ih =>
      intro f hf
      refine ih _ ?_
      dsimp only
      split
      · exact cellsWf_cellSet hf _ _
      · exact hf
  exact this left _ (cellsWf_flashErase n h)

/-- Two sectors share no byte address. -/
theorem flashAddr_ne {n k : SectorNo} {o p : Nat} (hk : k ≠ n) (ho : o < 4096) (hp : p < 4096) : flashAddr k p ≠ flashAddr n o := by
  have : k.val ≠ n.val := fun h => hk (Fin.ext h)
  simp only [flashAddr, Config.sectorSize]
  omega

/-- A run of bytes put into a sector leaves every byte outside the run as it was. -/
theorem flashByte_flashWrite_out (m : List Host.Cell) (n k : SectorNo) (o p : Nat) (bs : List Byte)
    (ho : o + bs.length ≤ 4096) (hp : p < 4096) (h : k ≠ n ∨ p < o ∨ o + bs.length ≤ p) :
    flashByte (flashWrite m n o bs) k p = flashByte m k p := by
  apply cellGet_cellWrite_out
  have hk := k.isLt
  have hn := n.isLt
  simp only [flashAddr, Config.sectorSize]
  rcases h with h | h
  · have : k.val ≠ n.val := fun e => h (Fin.ext e)
    omega
  · by_cases e : k = n
    · subst e
      omega
    · have : k.val ≠ n.val := fun e' => e (Fin.ext e')
      omega

/-- A run of bytes put into a sector reads back. -/
theorem flashRead_flashWrite (m : List Host.Cell) (n : SectorNo) (o : Nat) (bs : List Byte) :
    flashRead (flashWrite m n o bs) n o bs.length = bs := cellRead_cellWrite _ _ _ _

theorem cellGet_filter_of_true {p : Host.Cell → Bool} : ∀ {m : List Host.Cell}, (∀ v, p (a, v) = true) →
    cellGet d (m.filter p) a = cellGet d m a
  | [], _ => rfl
  | c :: m, h => by
    by_cases hc : c.1 = a
    · have : p c = true := by
        have := h c.2
        rwa [← hc] at this
      simp [this, cellGet, hc]
    · by_cases hp : p c = true
      · simp [hp, cellGet, hc, cellGet_filter_of_true h]
      · simp [hp, cellGet, hc, cellGet_filter_of_true h]

/-- An erase leaves every byte of its sector reading 0xFF (R19). -/
theorem flashByte_flashErase_same (m : List Host.Cell) (n : SectorNo) {o : Nat} (ho : o < 4096) :
    flashByte (flashErase m n) n o = 0xFF := by
  apply cellGet_of_not_mem
  intro c hc e
  have := (List.mem_filter.1 hc).2
  have hc : inSector n c = true := by
    simp only [flashAddr, Config.sectorSize] at e
    simp only [inSector, Bool.and_eq_true, decide_eq_true_eq]
    simp only [flashAddr, Config.sectorSize]
    omega
  simp [hc] at this

/-- An erase leaves every byte of every other sector as it was. -/
theorem flashByte_flashErase_ne (m : List Host.Cell) {n k : SectorNo} (h : k ≠ n) {o : Nat} (ho : o < 4096) :
    flashByte (flashErase m n) k o = flashByte m k o := by
  apply cellGet_filter_of_true
  intro v
  have : k.val ≠ n.val := fun e => h (Fin.ext e)
  by_contra hc
  have hc : inSector n (flashAddr k o, v) = true := by simpa using hc
  simp only [inSector, Bool.and_eq_true, decide_eq_true_eq] at hc
  simp only [flashAddr, Config.sectorSize] at hc
  omega

/-- What a cut-off erase leaves changes no byte of another sector. -/
theorem flashByte_flashLoad_ne (m left : List Host.Cell) {n k : SectorNo} (h : k ≠ n) {o : Nat} (ho : o < 4096) :
    flashByte (flashLoad m n left) k o = flashByte m k o := by
  have : ∀ (l f : List Host.Cell), flashByte (l.foldl (fun f c =>
      if c.1 < Config.sectorSize then cellSet Config.erasedByte f (flashAddr n c.1) c.2 else f) f) k o = flashByte f k o := by
    intro l
    induction l with
    | nil => exact fun _ => rfl
    | cons c l ih =>
      intro f
      simp only [List.foldl_cons, ih]
      split
      · next hc => exact cellGet_cellSet_ne _ _ _ (flashAddr_ne h hc ho)
      · rfl
  rw [flashLoad, this, flashByte_flashErase_ne m h ho]

/-! ### What a write and a read of flash give -/

theorem flashByte_flashWrite {m : List Host.Cell} {n : SectorNo} {o : Nat} {bs : List Byte} (ho : o + bs.length ≤ 4096)
    (k : SectorNo) {p : Nat} (hp : p < 4096) : flashByte (flashWrite m n o bs) k p =
      if k = n ∧ o ≤ p ∧ p < o + bs.length then bs.getD (p - o) 0 else flashByte m k p := by
  split
  · next h =>
    obtain ⟨rfl, h1, h2⟩ := h
    have hi : p - o < bs.length := by omega
    rw [List.getD_eq_getElem _ _ hi]
    have e : flashAddr k p = flashAddr k o + (p - o) := by unfold flashAddr; omega
    unfold flashByte flashWrite
    rw [e]
    exact cellGet_cellWrite_in _ bs m _ _ hi
  · next h => 
    rw [flashByte_flashWrite_out _ _ _ _ _ _ ho hp]
    by_cases h1 : k = n
    · right; by_contra h2; exact h ⟨h1, by omega, by omega⟩
    · exact .inl h1

theorem getD_flashRead (m : List Host.Cell) (n : SectorNo) (o : Nat) {len i : Nat} (h : i < len) :
    (flashRead m n o len).getD i 0 = flashByte m n (o + i) := by
  unfold flashRead
  rw [List.getD_eq_getElem _ _ (by simpa using h), getElem_cellRead]
  unfold flashByte flashAddr
  rw [Nat.add_assoc]

theorem length_flashRead (m : List Host.Cell) (n : SectorNo) (o len : Nat) : (flashRead m n o len).length = len := by
  simp [flashRead]

end Sys2Proof.Machine
end

