-- ==== Sys2Proof/Laws/Index.lean ====
section
/-! SUPPORT. The key index: what each claim answers and leaves, and that each keeps the order of the entries and the nine counts. -/

namespace Sys2Proof.Machine

/-! ### The order of the entries -/

/-- The order, said of the whole list. -/
theorem entriesAscend_iff : ∀ (l : List Entry), entriesAscend l = true ↔ l.Pairwise (fun a b => a.key < b.key)
  | [] => by simp [entriesAscend]
  | [_] => by simp [entriesAscend]
  | a :: b :: l => by
    have ih := entriesAscend_iff (b :: l)
    simp only [entriesAscend, Bool.and_eq_true, decide_eq_true_eq, ih]
    constructor
    · rintro ⟨h, hp⟩
      refine List.pairwise_cons.2 ⟨fun x hx => ?_, hp⟩
      rcases List.mem_cons.1 hx with rfl | hx
      · exact h
      · exact Nat.lt_trans h ((List.pairwise_cons.1 hp).1 x hx)
    · intro hp
      have hp := List.pairwise_cons.1 hp
      exact ⟨hp.1 b (List.mem_cons_self ..), hp.2⟩

theorem mem_entryInsert {e x : Entry} : ∀ {l : List Entry}, x ∈ entryInsert e l ↔ x = e ∨ x ∈ l
  | [] => by simp [entryInsert]
  | y :: l => by
    simp only [entryInsert]
    split
    · simp
    · simp [mem_entryInsert (l := l), or_left_comm]

theorem pairwise_entryInsert {e : Entry} : ∀ {l : List Entry}, l.Pairwise (fun a b => a.key < b.key) →
    (∀ x ∈ l, x.key ≠ e.key) → (entryInsert e l).Pairwise (fun a b => a.key < b.key)
  | [], _, _ => by simp [entryInsert]
  | y :: l, hp, hn => by
    have hp' := List.pairwise_cons.1 hp
    simp only [entryInsert]
    split
    · next h =>
      refine List.pairwise_cons.2 ⟨fun x hx => ?_, hp⟩
      rcases List.mem_cons.1 hx with rfl | hx
      · exact h
      · exact Nat.lt_trans h (hp'.1 x hx)
    · next h =>
      refine List.pairwise_cons.2
        ⟨fun x hx => ?_, pairwise_entryInsert hp'.2 fun x hx => hn x (List.mem_cons_of_mem _ hx)⟩
      rcases mem_entryInsert.1 hx with rfl | hx
      · have := hn y (List.mem_cons_self ..)
        omega
      · exact hp'.1 x hx

@[simp] theorem length_entryInsert (e : Entry) : ∀ (l : List Entry), (entryInsert e l).length = l.length + 1
  | [] => rfl
  | y :: l => by
    simp only [entryInsert]
    split
    · rfl
    · simp [length_entryInsert e l]

theorem countP_entryInsert (p : Entry → Bool) (e : Entry) : ∀ (l : List Entry),
    (entryInsert e l).countP p = l.countP p + if p e then 1 else 0
  | [] => by simp [entryInsert, List.countP_cons]
  | y :: l => by
    simp only [entryInsert]
    split
    · simp [List.countP_cons]
    · simp only [List.countP_cons, countP_entryInsert p e l]
      omega

@[simp] theorem length_entryUpdate (k : Nat) (f : Entry → Entry) (l : List Entry) : (entryUpdate k f l).length = l.length := by
  simp [entryUpdate]

theorem pairwise_entryUpdate {k : Nat} {f : Entry → Entry} (hf : ∀ e, (f e).key = e.key) {l : List Entry}
    (h : l.Pairwise (fun a b => a.key < b.key)) : (entryUpdate k f l).Pairwise (fun a b => a.key < b.key) := by
  refine List.pairwise_map.2 (h.imp fun {a b} hab => ?_)
  have hk : ∀ e : Entry, (if e.key = k then f e else e).key = e.key := by
    intro e
    split
    · exact hf e
    · rfl
  rw [hk, hk]
  exact hab

theorem countP_entryUpdate_same {k : Nat} {f : Entry → Entry} {p : Entry → Bool} (hf : ∀ e, p (f e) = p e) (l : List Entry) :
    (entryUpdate k f l).countP p = l.countP p := by
  rw [entryUpdate, List.countP_map]
  congr 1
  funext e
  simp only [Function.comp]
  split
  · exact hf e
  · rfl

/-! ### Lookup -/

/-- A lookup answers an entry of the key. -/
theorem KeyIndex.lookup_some {x : KeyIndex} {k : Nat} {e : Entry} (h : x.lookup k = some e) : e ∈ x.entries ∧ e.key = k :=
  ⟨List.mem_of_find?_eq_some h, by simpa using List.find?_some h⟩

/-- A lookup answers absent only where no entry has the key. -/
theorem KeyIndex.lookup_none {x : KeyIndex} {k : Nat} (h : x.lookup k = none) : ∀ e ∈ x.entries, e.key ≠ k := by
  simpa [KeyIndex.lookup] using h

/-- In key order the entries of one key are one entry. -/
theorem pairwise_key_unique {l : List Entry} (h : l.Pairwise (fun a b => a.key < b.key)) {a b : Entry} (ha : a ∈ l) (hb : b ∈ l)
    (hk : a.key = b.key) : a = b := by
  induction l with
  | nil => cases ha
  | cons c l ih =>
    have hp := List.pairwise_cons.1 h
    rcases List.mem_cons.1 ha with ha' | ha'
    · rcases List.mem_cons.1 hb with hb' | hb'
      · rw [ha', hb']
      · have := hp.1 b hb'
        rw [ha'] at hk
        omega
    · rcases List.mem_cons.1 hb with hb' | hb'
      · have := hp.1 a ha'
        rw [hb'] at hk
        omega
      · exact ih hp.2 ha' hb'

theorem lookup_eq_of_mem {x : KeyIndex} (h : x.entries.Pairwise (fun a b => a.key < b.key)) {e : Entry} (he : e ∈ x.entries) :
    x.lookup e.key = some e := by
  cases hl : x.lookup e.key with
  | none => exact absurd rfl (KeyIndex.lookup_none hl e he)
  | some f =>
    obtain ⟨hf, hk⟩ := KeyIndex.lookup_some hl
    rw [pairwise_key_unique h hf he hk]

/-! ### The counts -/

theorem getElem_countUp (v : Vector Nat 9) (c : Nat) (k : Fin 9) :
    (countUp v c)[k] = v[k] + if countNo c = k then 1 else 0 := by
  simp only [countUp, Fin.getElem_fin, Vector.getElem_set, Fin.ext_iff]
  split
  · next h => simp [h]
  · rfl

theorem getElem_countDown (v : Vector Nat 9) (c : Nat) (k : Fin 9) :
    (countDown v c)[k] = v[k] - if countNo c = k then 1 else 0 := by
  simp only [countDown, Fin.getElem_fin, Vector.getElem_set, Fin.ext_iff]
  split
  · next h => simp [h]
  · rfl

theorem getElem_countMove (v : Vector Nat 9) (a b : Nat) (k : Fin 9) :
    (countMove v a b)[k] = if countNo a = countNo b then v[k]
      else (v[k] - if countNo a = k then 1 else 0) + if countNo b = k then 1 else 0 := by
  unfold countMove
  split
  · rfl
  · rw [getElem_countUp, getElem_countDown]

/-! ### Each claim keeps the index sound -/

theorem KeyIndex.Sound.pairwise {x : KeyIndex} (h : x.Sound) : x.entries.Pairwise (fun a b => a.key < b.key) :=
  (entriesAscend_iff _).1 h.1

/-- The empty index is sound. -/
theorem KeyIndex.reset_sound : KeyIndex.reset.Sound := by
  refine ⟨rfl, by decide, fun k => ?_⟩
  simp [KeyIndex.reset]

/-- The hold and the waiter play no part in soundness. -/
theorem KeyIndex.Sound.congr {x y : KeyIndex} (h : x.Sound) (he : y.entries = x.entries) (hc : y.counts = x.counts) : y.Sound := by
  unfold KeyIndex.Sound
  rw [he, hc]
  exact h

/-- A change of an entry that keeps key and class keeps the index sound. -/
theorem KeyIndex.Sound.update {x y : KeyIndex} {k : Nat} {f : Entry → Entry} (h : x.Sound) (hk : ∀ e, (f e).key = e.key)
    (hc : ∀ e, (f e).cls = e.cls) (he : y.entries = entryUpdate k f x.entries) (hn : y.counts = x.counts) : y.Sound := by
  refine ⟨?_, ?_, fun c => ?_⟩
  · rw [he, entriesAscend_iff]
    exact pairwise_entryUpdate hk h.pairwise
  · rw [he, length_entryUpdate]
    exact h.2.1
  · rw [he, hn, countP_entryUpdate_same (fun e => by rw [hc]), h.2.2 c]

theorem KeyIndex.clearMoving_sound {x : KeyIndex} (h : x.Sound) (k : Nat) : (x.clearMoving k).Sound :=
  h.update (f := fun e => { e with moving := false }) (fun _ => rfl) (fun _ => rfl) rfl rfl

theorem KeyIndex.takeHold_sound {x y : KeyIndex} {k : Nat} {o : Option Entry} (h : x.Sound) (ht : x.takeHold k = some (y, o)) :
    y.Sound := by
  unfold KeyIndex.takeHold at ht
  split at ht
  · split at ht
    · cases ht
    · cases ht
      exact h.congr rfl rfl
  · cases ht
    exact h.congr rfl rfl

theorem KeyIndex.markMoving_sound {x : KeyIndex} (h : x.Sound) (k : Nat) (p : Place) : (x.markMoving k p).1.Sound := by
  unfold KeyIndex.markMoving
  split
  · exact h
  · split
    · exact h
    · split
      · exact h.update (f := fun e => { e with moving := true }) (fun _ => rfl) (fun _ => rfl) rfl rfl
      · exact h

theorem KeyIndex.relocate_sound {x y : KeyIndex} {k : Nat} {o c : Place} (h : x.Sound) (hr : x.relocate k o c = some y) : y.Sound := by
  unfold KeyIndex.relocate at hr
  split at hr
  · split at hr
    · cases hr
      exact h.update (f := fun e => { e with place := c }) (fun _ => rfl) (fun _ => rfl) rfl rfl
    · cases hr
  · cases hr

theorem KeyIndex.insert_sound {x : KeyIndex} (h : x.Sound) (e : Entry) : (x.insert e).1.Sound := by
  unfold KeyIndex.insert
  split
  · exact h
  · next hlen =>
    split
    · exact h
    · next hno =>
      have hno : ∀ y ∈ x.entries, y.key ≠ e.key := KeyIndex.lookup_none (by simpa using hno)
      refine ⟨?_, ?_, fun c => ?_⟩
      · rw [entriesAscend_iff]
        exact pairwise_entryInsert h.pairwise hno
      · show (entryInsert _ x.entries).length ≤ _
        rw [length_entryInsert]
        omega
      · show (countUp x.counts e.cls)[c] = (entryInsert _ x.entries).countP _
        rw [getElem_countUp, countP_entryInsert, h.2.2 c]
        simp

/-- Changing the entry of a key, and moving the counts with it, keeps the counts right. -/
theorem countP_entryUpdate_take {l : List Entry} (h : l.Pairwise (fun a b => a.key < b.key)) {old new : Entry} (ho : old ∈ l)
    (hk : old.key = new.key) (k : Fin 9) :
    (entryUpdate new.key (fun e => e.take new) l).countP (fun e => decide (countNo e.cls = k)) =
      (l.countP (fun e => decide (countNo e.cls = k)) - if countNo old.cls = k then 1 else 0) +
        if countNo new.cls = k then 1 else 0 := by
  induction l with
  | nil => cases ho
  | cons a l ih =>
    have hp := List.pairwise_cons.1 h
    simp only [entryUpdate, List.map_cons, List.countP_cons]
    rcases List.mem_cons.1 ho with rfl | ho
    · have : (l.map fun e => if e.key = new.key then e.take new else e) = l := by
        refine (List.map_congr_left (g := id) fun e he => ?_).trans (List.map_id _)
        have := hp.1 e he
        rw [if_neg (by omega)]
        rfl
      rw [this]
      simp only [hk, if_true, Entry.take, decide_eq_true_eq]
      omega
    · have hne : a.key ≠ new.key := by
        have := hp.1 old ho
        omega
      have ih := ih hp.2 ho
      have hpos : countNo old.cls = k → 0 < l.countP (fun e => decide (countNo e.cls = k)) := fun hc =>
        List.countP_pos_iff.2 ⟨old, ho, by simpa using hc⟩
      simp only [entryUpdate] at ih
      rw [ih, if_neg hne]
      by_cases hc : countNo old.cls = k
      · have := hpos hc
        simp only [hc, if_true]
        omega
      · simp only [hc, if_false]
        omega

theorem KeyIndex.take_sound {x y : KeyIndex} {old new : Entry} (h : x.Sound) (hl : x.lookup new.key = some old)
    (he : y.entries = entryUpdate new.key (fun e => e.take new) x.entries) (hc : y.counts = countMove x.counts old.cls new.cls) :
    y.Sound := by
  obtain ⟨hm, hk⟩ := KeyIndex.lookup_some hl
  refine ⟨?_, ?_, fun k => ?_⟩
  · rw [he, entriesAscend_iff]
    exact pairwise_entryUpdate (f := fun e => e.take new) (fun _ => rfl) h.pairwise
  · rw [he, length_entryUpdate]
    exact h.2.1
  · have hpos : countNo old.cls = k → 0 < x.entries.countP (fun e => decide (countNo e.cls = k)) := fun hc =>
      List.countP_pos_iff.2 ⟨old, hm, by simpa using hc⟩
    rw [he, hc, countP_entryUpdate_take h.pairwise hm hk, getElem_countMove, h.2.2 k]
    split
    · next hs =>
      rw [hs] at hpos ⊢
      split
      · next hn =>
        have := hpos hn
        omega
      · omega
    · rfl

theorem KeyIndex.replace_sound {x y : KeyIndex} {e : Entry} (h : x.Sound) (hr : x.replace e = some y) : y.Sound := by
  unfold KeyIndex.replace at hr
  split at hr
  · next old hl =>
    cases hr
    exact KeyIndex.take_sound h hl rfl rfl
  · cases hr

theorem KeyIndex.remove_sound {x y : KeyIndex} {k : Nat} (h : x.Sound) (hr : x.remove k = some y) : y.Sound := by
  unfold KeyIndex.remove at hr
  split at hr
  · next old hl =>
    cases hr
    obtain ⟨hm, hk⟩ := KeyIndex.lookup_some hl
    refine ⟨?_, ?_, fun c => ?_⟩
    · rw [entriesAscend_iff]
      exact h.pairwise.filter _
    · exact (List.length_filter_le ..).trans h.2.1
    · show (countDown x.counts old.cls)[c] = (x.entries.filter _).countP _
      rw [getElem_countDown, h.2.2 c]
      have hsplit : ∀ (l : List Entry), l.Pairwise (fun a b => a.key < b.key) → old ∈ l →
          (l.filter (fun e => e.key != k)).countP (fun e => decide (countNo e.cls = c)) =
            l.countP (fun e => decide (countNo e.cls = c)) - if countNo old.cls = c then 1 else 0 := by
        intro l
        induction l with
        | nil => exact fun _ ho => by cases ho
        | cons a l ih =>
          intro hp ho
          have hp := List.pairwise_cons.1 hp
          rcases List.mem_cons.1 ho with rfl | ho
          · have hl : l.filter (fun e => e.key != k) = l := List.filter_eq_self.2 fun e he => by
              have := hp.1 e he
              simp only [bne_iff_ne]
              omega
            simp only [List.filter_cons, hk, bne_self_eq_false, Bool.false_eq_true, if_false, hl, List.countP_cons,
              decide_eq_true_eq]
            omega
          · have hne : a.key ≠ k := by
              have := hp.1 old ho
              omega
            have hpos : countNo old.cls = c → 0 < l.countP (fun e => decide (countNo e.cls = c)) := fun hc =>
              List.countP_pos_iff.2 ⟨old, ho, by simpa using hc⟩
            simp only [List.filter_cons, bne_iff_ne, ne_eq, hne, not_false_eq_true, if_true, List.countP_cons, ih hp.2 ho]
            by_cases hc : countNo old.cls = c
            · have := hpos hc
              simp only [hc, if_true]
              omega
            · simp only [hc, if_false]
              omega
      exact (hsplit _ h.pairwise hm).symm
  · cases hr

theorem KeyIndex.offer_sound {x : KeyIndex} (h : x.Sound) (e : Entry) (f : SectorNo → Nat) : (x.offer e f).1.Sound := by
  unfold KeyIndex.offer
  split
  · have hi := KeyIndex.insert_sound h e
    split
    · next heq =>
      rw [heq] at hi
      exact hi
    · next heq =>
      rw [heq] at hi
      exact hi
  · next old hl =>
    split
    · exact KeyIndex.take_sound h hl rfl rfl
    · exact h

/-! ### What each claim leaves of the other keys -/

/-- Changing the entry of one key leaves every other key's lookup as it was. -/
theorem lookup_entryUpdate_ne {x y : KeyIndex} {k j : Nat} {f : Entry → Entry} (hf : ∀ e, (f e).key = e.key)
    (he : y.entries = entryUpdate k f x.entries) (h : j ≠ k) : y.lookup j = x.lookup j := by
  unfold KeyIndex.lookup
  rw [he]
  induction x.entries with
  | nil => rfl
  | cons a l ih =>
    simp only [entryUpdate, List.map_cons, List.find?_cons] at ih ⊢
    by_cases ha : a.key = k
    · have h1 : (f a).key ≠ j := by
        rw [hf, ha]
        exact h.symm
      have h2 : a.key ≠ j := by
        rw [ha]
        exact h.symm
      simp only [ha, if_true]
      rw [show ((f a).key == j) = false by simpa using h1, show (k == j) = false by simpa using h.symm]
      exact ih
    · simp only [ha, if_false]
      split
      · rfl
      · exact ih

/-- Changing the entry of a key changes what its lookup answers. -/
theorem lookup_entryUpdate_same {x y : KeyIndex} {k : Nat} {f : Entry → Entry} (hf : ∀ e, (f e).key = e.key)
    (he : y.entries = entryUpdate k f x.entries) : y.lookup k = (x.lookup k).map f := by
  unfold KeyIndex.lookup
  rw [he]
  induction x.entries with
  | nil => rfl
  | cons a l ih =>
    simp only [entryUpdate, List.map_cons, List.find?_cons] at ih ⊢
    by_cases ha : a.key = k
    · have h1 : ((f a).key == k) = true := by rw [hf, ha]; simp
      simp [ha, h1]
    · simp only [ha, if_false]
      rw [show (a.key == k) = false by simpa using ha]
      exact ih

end Sys2Proof.Machine
end

