-- ==== Sys2Proof/Laws/Plane.lean ====
section
/-! SUPPORT. The plane controllers: every operation keeps the suspension of the plane's erase under its latched limit (R33), and what
each can do. -/

namespace Sys2Proof.Machine

variable {p : Plane} {suslim : Nat}

/-- A plane whose erase is that of a sound plane is sound. -/
theorem Plane.Sound.congr {q : Plane} (h : p.Sound) (he : q.erase = p.erase) : q.Sound := by
  unfold Plane.Sound
  rw [he]
  exact h

theorem Plane.sound_of_none (h : p.erase = none) : p.Sound := by
  unfold Plane.Sound
  rw [h]
  trivial

/-- What a plane with an erase owes. -/
theorem Plane.Sound.erase {e : EraseOp} (h : p.Sound) (he : p.erase = some e) :
    e.count ≤ e.limit ∧ e.limit ≤ 63 ∧ (e.cond = .suspending → e.count < e.limit) := by
  unfold Plane.Sound at h
  rw [he] at h
  exact h

theorem Plane.sound_of_some {e : EraseOp} (he : p.erase = some e)
    (h : e.count ≤ e.limit ∧ e.limit ≤ 63 ∧ (e.cond = .suspending → e.count < e.limit)) : p.Sound := by
  unfold Plane.Sound
  rw [he]
  exact h

theorem Plane.grant_sound (h : p.Sound) (hs : suslim ≤ 63) (c : Claim) : (p.grant suslim c).Sound := by
  unfold Plane.grant
  split
  · exact Plane.sound_of_some rfl ⟨Nat.zero_le _, hs, by simp⟩
  · exact h.congr rfl

theorem Plane.regrant_sound (h : p.Sound) (hs : suslim ≤ 63) : (p.regrant suslim).Sound := by
  unfold Plane.regrant
  split
  · refine Plane.grant_sound ?_ hs _
    exact h.congr rfl
  · split
    · refine Plane.grant_sound ?_ hs _
      exact h.congr rfl
    · exact h

/-- An erase set running again keeps its count and limit. -/
theorem Plane.sound_running {e : EraseOp} {q : Plane} (he : q.erase = some { e with cond := .running }) (hc : e.count ≤ e.limit)
    (hl : e.limit ≤ 63) : q.Sound :=
  Plane.sound_of_some he ⟨hc, hl, by simp⟩

theorem Plane.serveOrResume_sound {e : EraseOp} (h : p.Sound) (hs : suslim ≤ 63) (hc : e.count ≤ e.limit) (hl : e.limit ≤ 63) :
    (p.serveOrResume suslim e).Sound := by
  unfold Plane.serveOrResume
  split
  · split
    · exact Plane.sound_running rfl hc hl
    · refine Plane.grant_sound ?_ hs _
      exact h.congr rfl
  · exact Plane.sound_running rfl hc hl

theorem Plane.finishRun_sound (h : p.Sound) (hs : suslim ≤ 63) : (p.finishRun suslim).Sound := by
  unfold Plane.finishRun
  dsimp only
  split
  · exact h.congr rfl
  · split
    · exact Plane.regrant_sound (h.congr rfl) hs
    · next he =>
      have := h.erase he
      split
      · exact Plane.serveOrResume_sound (h.congr rfl) hs this.1 this.2.1
      · exact h.congr rfl

theorem Plane.finishErase_sound (hs : suslim ≤ 63) : (p.finishErase suslim).Sound := by
  unfold Plane.finishErase
  dsimp only
  split
  · exact Plane.sound_of_none rfl
  · exact Plane.regrant_sound (Plane.sound_of_none rfl) hs

theorem Plane.waitRequest_sound {e : EraseOp} (h : p.Sound) (he : p.erase = some e) (c : Claim) : (p.waitRequest e c).Sound := by
  have := h.erase he
  unfold Plane.waitRequest
  split
  · next hc => exact Plane.sound_of_some rfl ⟨this.1, this.2.1, fun _ => hc.2.1⟩
  · exact h.congr rfl

theorem Plane.arriveInErase_sound {e : EraseOp} (h : p.Sound) (he : p.erase = some e) (hs : suslim ≤ 63) (c : Claim) :
    (p.arriveInErase suslim e c).Sound := by
  unfold Plane.arriveInErase
  split
  · split
    · exact Plane.grant_sound h hs c
    · exact Plane.waitRequest_sound h he c
  · exact h.congr rfl
  · exact Plane.grant_sound h hs c

theorem Plane.arriveFree_sound (h : p.Sound) (hs : suslim ≤ 63) (c : Claim) : (p.arriveFree suslim c).Sound := by
  unfold Plane.arriveFree
  split
  · exact Plane.grant_sound h hs c
  · split
    · exact h.congr rfl
    · exact h.congr rfl
    · exact Plane.grant_sound h hs c

theorem Plane.withdraw_sound (h : p.Sound) (who : Claimant) : (p.withdraw who).Sound := by
  cases who <;> exact h.congr rfl

theorem Plane.askStop_sound (h : p.Sound) (who : Claimant) : (p.askStop who).Sound := by
  unfold Plane.askStop
  split
  · split
    · exact h.congr rfl
    · exact h
  · exact h

theorem Plane.halt_sound : p.halt.Sound := Plane.sound_of_none rfl

/-- An ordered suspension that completes raises the count at most to the limit (R31, R33). -/
theorem Plane.suspend_sound {e : EraseOp} (h : p.Sound) (he : p.erase = some e) (hc : e.cond = .suspending) (hs : suslim ≤ 63) :
    (p.suspend suslim e).Sound := by
  obtain ⟨_, hl, hlt⟩ := h.erase he
  have hlt := hlt hc
  have hq : Plane.Sound { p with erase := some { e with cond := .suspended, count := e.count + 1 } } :=
    Plane.sound_of_some rfl ⟨by show e.count + 1 ≤ e.limit; omega, hl, by simp⟩
  unfold Plane.suspend
  dsimp only
  split
  · exact hq
  · exact Plane.serveOrResume_sound hq hs (by show e.count + 1 ≤ e.limit; omega) hl

/-! ### The planes of the part -/

@[simp] theorem State.plane_setPlane_same (s : State) (id : PlaneId) (x : Plane) : (s.setPlane id x).plane id = x := by
  cases id <;> rfl

theorem State.plane_setPlane_ne (s : State) {id k : PlaneId} (h : k ≠ id) (x : Plane) : (s.setPlane id x).plane k = s.plane k := by
  cases id <;> cases k <;> simp_all [State.plane, State.setPlane]

/-- A claim reaches one plane, the one of its sector, or is answered at once: HALTED on a halted plane, ERASING where it names the
sector of the erase (R21, R23, R36). -/
theorem State.claim_cases (s : State) (c : Claim) :
    s.claim c = s.signal (.answer c.who (.halted [] 0)) ∨ s.claim c = s.signal (.answer c.who .erasing) ∨
      ∃ q : Plane, s.claim c = s.setPlane (planeOf c.sector) q ∧
        (q = (s.plane (planeOf c.sector)).arriveFree s.win.suslim c ∨
          ∃ e, (s.plane (planeOf c.sector)).erase = some e ∧ q = (s.plane (planeOf c.sector)).arriveInErase s.win.suslim e c) := by
  unfold State.claim
  dsimp only
  split
  · exact .inl rfl
  · split
    · exact .inr (.inr ⟨_, rfl, .inl rfl⟩)
    · next e he =>
      split
      · exact .inr (.inl rfl)
      · exact .inr (.inr ⟨_, rfl, .inr ⟨e, he, rfl⟩⟩)

end Sys2Proof.Machine
end

