-- ==== Sys2Proof/Laws/Evolves.lean ====
section
/-! SUPPORT. What the blocks of the part can do within a step, said once: `Evolves s t` says of two states what no work of the request
engine, the reclaim engine, the mount logic, the space manager, the key index or a plane controller's grant changes, and which way
the rest can go. Every function from the taking of a slot to the settling of the agenda evolves the state it is given. -/

namespace Sys2Proof.Machine

set_option Elab.async false

/-- The parts of the state that `Evolves` speaks of. -/
structure Watched where
  flash : List Host.Cell
  pending : List Instr
  halted : Bool
  resetLow : Bool
  faults : FaultCounts
  win : Window
  active : Option SlotNo
  store : StoreState
  writeSeq : Nat
  gen : Nat
  seqCtr : Nat
  mnt : Mount
  idx : KeyIndex
  pl0 : Plane
  pl1 : Plane

/-- The parts of a state that `Evolves` speaks of. -/
def State.watched (s : State) : Watched :=
  { flash := s.flash, pending := s.pending, halted := s.halted, resetLow := s.resetLow, faults := s.faults, win := s.win
    active := s.activeSlot, store := s.eng.store, writeSeq := s.eng.writeSeq, gen := s.space.gen, seqCtr := s.space.seqCtr
    mnt := s.mnt, idx := s.idx, pl0 := s.pl0, pl1 := s.pl1 }

/-- What one watched state may become. -/
structure Watched.Evolves (a b : Watched) : Prop where
  /-- Flash is untouched: the plane commands alone change it. -/
  flash : b.flash = a.flash
  /-- The commands that wait still wait. -/
  pending : b.pending = a.pending
  /-- The power-fail flag is as it was. -/
  halted : b.halted = a.halted
  /-- RESET# is as it was. -/
  resetLow : b.resetLow = a.resetLow
  /-- The fault counts are as they were. -/
  faults : b.faults = a.faults
  /-- The host's bytes of the window are as they were: all but the slots, the queue and IFLAG. -/
  host : { b.win with slots := a.win.slots, queue := a.win.queue, iflag := a.win.iflag } = a.win
  /-- No interrupt flag is cleared. -/
  iflag : a.win.iflag ||| b.win.iflag = b.win.iflag
  /-- No parameter byte changes (R96). -/
  params : ∀ n : SlotNo, (b.win.slots[n]).params = (a.win.slots[n]).params
  /-- Slot buffers keep their form. -/
  buffers : (∀ n : SlotNo, bufferSound (a.win.slots[n]).buffer = true) → ∀ n : SlotNo, bufferSound (b.win.slots[n]).buffer = true
  /-- The slots go on agreeing with the queue and with the ACTIVE request. -/
  seats : a.win.Seated a.active → b.win.Seated b.active
  /-- HALTED stays (R190). -/
  haltStays : a.store = .halted → b.store = .halted
  /-- HALTED is not entered. -/
  haltFrom : b.store = .halted → a.store = .halted
  /-- A change of the store state raises STATE_CHG (R7). -/
  raised : b.store ≠ a.store → b.win.iflag.getLsbD 5 = true
  /-- After MOUNTING: it is not entered again, the counters do not fall, and what mount noted stands (R6, R73, R74, R135). -/
  after : a.store ≠ .mounting →
    b.store ≠ .mounting ∧ a.writeSeq ≤ b.writeSeq ∧ a.gen ≤ b.gen ∧ a.seqCtr ≤ b.seqCtr ∧ b.mnt = a.mnt
  /-- The index stays sound. -/
  index : a.idx.Sound → b.idx.Sound
  /-- Plane 0 stays sound. -/
  plane0 : a.win.suslim ≤ 63 → a.pl0.Sound → b.pl0.Sound
  /-- Plane 1 stays sound. -/
  plane1 : a.win.suslim ≤ 63 → a.pl1.Sound → b.pl1.Sound

/-- `t` is a state that the blocks can bring `s` to within a step. -/
def Evolves (s t : State) : Prop := s.watched.Evolves t.watched

theorem Watched.Evolves.refl (a : Watched) : a.Evolves a :=
  ⟨rfl, rfl, rfl, rfl, rfl, rfl, BitVec.or_self, fun _ => rfl, fun h => h, fun h => h, fun h => h, fun h => h, fun h => absurd rfl h,
    fun h => ⟨h, Nat.le_refl _, Nat.le_refl _, Nat.le_refl _, rfl⟩, fun h => h, fun _ h => h, fun _ h => h⟩

theorem Watched.Evolves.suslim {a b : Watched} (h : a.Evolves b) : b.win.suslim = a.win.suslim := by
  have := congrArg Window.suslim h.host
  exact this

theorem or_getLsbD_mono {x y : Byte} (h : x ||| y = y) {i : Nat} (hx : x.getLsbD i = true) : y.getLsbD i = true := by
  rw [← h, BitVec.getLsbD_or, hx, Bool.true_or]

theorem Watched.Evolves.trans {a b c : Watched} (h : a.Evolves b) (k : b.Evolves c) : a.Evolves c where
  flash := k.flash.trans h.flash
  pending := k.pending.trans h.pending
  halted := k.halted.trans h.halted
  resetLow := k.resetLow.trans h.resetLow
  faults := k.faults.trans h.faults
  host := by
    have h1 := h.host
    have h2 := k.host
    rw [← h2] at h1
    exact h1
  iflag := by
    rw [← k.iflag, ← BitVec.or_assoc, h.iflag]
  params := fun n => (k.params n).trans (h.params n)
  buffers := fun hb => k.buffers (h.buffers hb)
  seats := fun hb => k.seats (h.seats hb)
  haltStays := fun hb => k.haltStays (h.haltStays hb)
  haltFrom := fun hb => h.haltFrom (k.haltFrom hb)
  raised := fun hne => by
    by_cases hb : b.store = a.store
    · exact k.raised (hb ▸ hne)
    · exact or_getLsbD_mono k.iflag (h.raised hb)
  after := fun hm => by
    obtain ⟨h1, h2, h3, h4, h5⟩ := h.after hm
    obtain ⟨k1, k2, k3, k4, k5⟩ := k.after h1
    exact ⟨k1, h2.trans k2, h3.trans k3, h4.trans k4, k5.trans h5⟩
  index := fun hi => k.index (h.index hi)
  plane0 := fun hs hp => k.plane0 (h.suslim ▸ hs) (h.plane0 hs hp)
  plane1 := fun hs hp => k.plane1 (h.suslim ▸ hs) (h.plane1 hs hp)

variable {s t : State}

theorem Evolves.refl (s : State) : Evolves s s := Watched.Evolves.refl _

theorem Evolves.trans {u : State} (h : Evolves s t) (k : Evolves t u) : Evolves s u := Watched.Evolves.trans h k

/-! ### Parts that are not watched -/

theorem Evolves.rcl {x : Reclaim} (h : Evolves s t) : Evolves s { t with rcl := x } := h
theorem Evolves.classes {x : Vector ClassEntry 8} (h : Evolves s t) : Evolves s { t with classes := x } := h
theorem Evolves.agenda {x : List Signal} (h : Evolves s t) : Evolves s { t with agenda := x } := h
theorem Evolves.sectors {x : Vector SectorEntry 64} (h : Evolves s t) :
    Evolves s { t with space := { t.space with sectors := x } } := h
theorem Evolves.corruptReads {n : Nat} (h : Evolves s t) : Evolves s { t with eng := { t.eng with corruptReads := n } } := h
theorem Evolves.signal {x : Signal} (h : Evolves s t) : Evolves s (t.signal x) := h
theorem Evolves.setAct {a : ReclaimAct} (h : Evolves s t) : Evolves s (t.setAct a) := h
theorem Evolves.putSector {n : SectorNo} {e : SectorEntry} (h : Evolves s t) : Evolves s (t.putSector n e) := h
theorem Evolves.withdrawStop (h : Evolves s t) : Evolves s t.withdrawStop := h
theorem Evolves.exclude {n : SectorNo} {st : ReclaimStep} (h : Evolves s t) : Evolves s (t.exclude n st) := h
theorem Evolves.pruneExcluded (h : Evolves s t) : Evolves s t.pruneExcluded := h
theorem Evolves.nameSector {n : SectorNo} {k : CycleKind} (h : Evolves s t) : Evolves s (t.nameSector n k) := h
theorem Evolves.reclaimHalt (h : Evolves s t) : Evolves s t.reclaimHalt := h

/-! ### The primitive changes -/

theorem Evolves.raise {f : IntFlag} (h : Evolves s t) : Evolves s (t.raise f) :=
  h.trans
    { flash := rfl, pending := rfl, halted := rfl, resetLow := rfl, faults := rfl, host := rfl
      iflag := by
        show t.win.iflag ||| (t.win.iflag ||| f.mask) = t.win.iflag ||| f.mask
        rw [← BitVec.or_assoc, BitVec.or_self]
      params := fun _ => rfl, buffers := fun h => h
      seats := fun h => ⟨h.nodup, h.queued, h.active, h.hidden⟩, haltStays := fun h => h, haltFrom := fun h => h
      raised := fun h => absurd rfl h
      after := fun h => ⟨h, Nat.le_refl _, Nat.le_refl _, Nat.le_refl _, rfl⟩
      index := fun h => h, plane0 := fun _ h => h, plane1 := fun _ h => h }

theorem slot_get_set (v : Vector Slot 4) (n k : SlotNo) (x : Slot) : (v.set n x)[k] = if n = k then x else v[k] := by
  simp only [Fin.getElem_fin, Vector.getElem_set, Fin.ext_iff]

/-- A slot set to one of the same parameters and of a buffer that keeps its form, the queue and the ACTIVE request set, where the
slots go on agreeing with them. -/
theorem Evolves.seat {n : SlotNo} {x : Slot} {q : List SlotNo} {o : Option Request} (h : Evolves s t)
    (hp : x.params = (t.slot n).params) (hb : bufferSound (t.slot n).buffer = true → bufferSound x.buffer = true)
    (hs : t.win.Seated t.activeSlot →
      ({ t.win with slots := t.win.slots.set n x, queue := q } : Window).Seated (o.map fun r => r.slot)) :
    Evolves s { t with
      win := { t.win with slots := t.win.slots.set n x, queue := q }, eng := { t.eng with req := o } } :=
  h.trans
    { flash := rfl, pending := rfl, halted := rfl, resetLow := rfl, faults := rfl, host := rfl
      iflag := BitVec.or_self
      params := fun k => by
        show ((t.win.slots.set n x)[k]).params = _
        rw [slot_get_set]
        split
        · next e =>
          subst e
          exact hp
        · rfl
      buffers := fun hw k => by
        show bufferSound ((t.win.slots.set n x)[k]).buffer = true
        rw [slot_get_set]
        split
        · exact hb (hw n)
        · exact hw k
      seats := hs
      haltStays := fun h => h, haltFrom := fun h => h
      raised := fun h => absurd rfl h
      after := fun h => ⟨h, Nat.le_refl _, Nat.le_refl _, Nat.le_refl _, rfl⟩
      index := fun h => h, plane0 := fun _ h => h, plane1 := fun _ h => h }

/-- A slot that keeps its state and its hiding keeps its seat. -/
theorem Window.Seated.setSlot {w : Window} {a : Option SlotNo} {n : SlotNo} {x : Slot} (h : w.Seated a)
    (h1 : x.state = (w.slots[n]).state) (h2 : x.hidden = (w.slots[n]).hidden) :
    ({ w with slots := w.slots.set n x } : Window).Seated a := by
  have e1 : ∀ k : SlotNo, ((w.slots.set n x)[k]).state = (w.slots[k]).state := fun k => by
    rw [slot_get_set]; split
    · next e => subst e; exact h1
    · rfl
  have e2 : ∀ k : SlotNo, ((w.slots.set n x)[k]).hidden = (w.slots[k]).hidden := fun k => by
    rw [slot_get_set]; split
    · next e => subst e; exact h2
    · rfl
  exact ⟨h.nodup, fun k => by rw [e1]; exact h.queued k, fun k => by rw [e1]; exact h.active k,
    fun k => by rw [e1, e2]; exact h.hidden k⟩

/-- The slot of the ACTIVE request leaves its seat. -/
theorem Window.Seated.leave {w : Window} {n : SlotNo} {x : Slot} (h : w.Seated (some n)) (h1 : x.state = .done ∨ x.state = .free)
    (h2 : x.hidden = false) : ({ w with slots := w.slots.set n x } : Window).Seated none := by
  have hq : n ∉ w.queue := fun hm => by
    have := (h.queued n).2 hm
    rw [(h.active n).2 rfl] at this
    exact nomatch this
  have hx : x.state ≠ .queued ∧ x.state ≠ .active := by rcases h1 with h1 | h1 <;> rw [h1] <;> decide
  refine ⟨h.nodup, fun k => ?_, fun k => ?_, fun k => ?_⟩ <;> dsimp only <;> rw [slot_get_set] <;> split
  · next e => subst e; exact ⟨fun c => absurd c hx.1, fun c => absurd c hq⟩
  · exact h.queued k
  · exact ⟨fun c => absurd c hx.2, fun c => nomatch c⟩
  · next e => exact ⟨fun c => absurd (Option.some.inj ((h.active k).1 c)) e, fun c => nomatch c⟩
  · exact fun c => by rw [h2] at c; exact nomatch c
  · exact h.hidden k

/-- The head of the queue takes the seat of the ACTIVE request. -/
theorem Window.Seated.take {w : Window} {n : SlotNo} {l : List SlotNo} {x : Slot} (h : w.Seated none) (hq : w.queue = n :: l)
    (h1 : x.state = .active) : ({ w with slots := w.slots.set n x, queue := l } : Window).Seated (some n) := by
  have hd := h.nodup
  rw [hq, List.nodup_cons] at hd
  refine ⟨hd.2, fun k => ?_, fun k => ?_, fun k => ?_⟩ <;> dsimp only <;> rw [slot_get_set] <;> split
  · next e =>
    subst e
    exact ⟨(fun c => by rw [h1] at c; exact nomatch c), fun c => absurd c hd.1⟩
  · next e =>
    rw [h.queued k, hq, List.mem_cons]
    exact ⟨fun c => c.resolve_left (fun c => e c.symm), .inr⟩
  · next e => subst e; exact ⟨fun _ => rfl, fun _ => h1⟩
  · next e => exact ⟨(fun c => nomatch (h.active k).1 c), fun c => absurd (Option.some.inj c) e⟩
  · exact fun _ => h1
  · exact h.hidden k

/-- A slot set to one of the same parameters, state and hiding and of a buffer that keeps its form. -/
theorem Evolves.setSlot {n : SlotNo} {x : Slot} (h : Evolves s t) (hp : x.params = (t.slot n).params)
    (hb : bufferSound (t.slot n).buffer = true → bufferSound x.buffer = true) (h1 : x.state = (t.slot n).state)
    (h2 : x.hidden = (t.slot n).hidden) : Evolves s (t.setSlot n x) :=
  h.seat (q := t.win.queue) (o := t.eng.req) hp hb fun hs => hs.setSlot h1 h2

theorem Evolves.idx {x : KeyIndex} (h : Evolves s t) (hx : t.idx.Sound → x.Sound) : Evolves s { t with idx := x } :=
  h.trans
    { flash := rfl, pending := rfl, halted := rfl, resetLow := rfl, faults := rfl, host := rfl
      iflag := BitVec.or_self
      params := fun _ => rfl, buffers := fun h => h, seats := fun h => h, haltStays := fun h => h, haltFrom := fun h => h
      raised := fun h => absurd rfl h
      after := fun h => ⟨h, Nat.le_refl _, Nat.le_refl _, Nat.le_refl _, rfl⟩
      index := hx, plane0 := fun _ h => h, plane1 := fun _ h => h }

/-- The two planes set, each sound where it was. -/
theorem Evolves.planes {x y : Plane} (h : Evolves s t) (hx : t.win.suslim ≤ 63 → t.pl0.Sound → x.Sound)
    (hy : t.win.suslim ≤ 63 → t.pl1.Sound → y.Sound) : Evolves s { t with pl0 := x, pl1 := y } :=
  h.trans
    { flash := rfl, pending := rfl, halted := rfl, resetLow := rfl, faults := rfl, host := rfl
      iflag := BitVec.or_self
      params := fun _ => rfl, buffers := fun h => h, seats := fun h => h, haltStays := fun h => h, haltFrom := fun h => h
      raised := fun h => absurd rfl h
      after := fun h => ⟨h, Nat.le_refl _, Nat.le_refl _, Nat.le_refl _, rfl⟩
      index := fun h => h, plane0 := hx, plane1 := hy }

theorem Evolves.setPlane {id : PlaneId} {x : Plane} (h : Evolves s t) (hx : t.win.suslim ≤ 63 → (t.plane id).Sound → x.Sound) :
    Evolves s (t.setPlane id x) := by
  cases id
  · exact h.planes hx (fun _ h => h)
  · exact h.planes (fun _ h => h) hx

/-- The engine's store state and version counter, and the space manager's counters, set. -/
theorem Evolves.counters {v g q : Nat} (h : Evolves s t) (hv : t.eng.writeSeq ≤ v) (hg : t.space.gen ≤ g)
    (hq : t.space.seqCtr ≤ q) :
    Evolves s { t with eng := { t.eng with writeSeq := v }, space := { t.space with gen := g, seqCtr := q } } :=
  h.trans
    { flash := rfl, pending := rfl, halted := rfl, resetLow := rfl, faults := rfl, host := rfl
      iflag := BitVec.or_self
      params := fun _ => rfl, buffers := fun h => h, seats := fun h => h, haltStays := fun h => h, haltFrom := fun h => h
      raised := fun h => absurd rfl h
      after := fun h => ⟨h, hv, hg, hq, rfl⟩
      index := fun h => h, plane0 := fun _ h => h, plane1 := fun _ h => h }

theorem Evolves.takeSeq (h : Evolves s t) : Evolves s t.takeSeq :=
  h.counters (Nat.le_refl _) (Nat.le_refl _) (Nat.le_succ _)

theorem getLsbD_stateChg_mask : IntFlag.stateChg.mask.getLsbD 5 = true := by decide

/-- A change of the store state to one that a block other than the power-fail detector sets (R7). -/
theorem Evolves.setStore {x : StoreState} (h : Evolves s t) (h1 : x ≠ .halted) (h2 : x ≠ .mounting) : Evolves s (t.setStore x) := by
  unfold State.setStore
  split
  · exact h
  · next hne =>
    have hk : Evolves t { t with eng := { t.eng with store := x }, win := t.win.raise .stateChg } :=
      { flash := rfl, pending := rfl, halted := rfl, resetLow := rfl, faults := rfl, host := rfl
        iflag := by
          show t.win.iflag ||| (t.win.iflag ||| IntFlag.stateChg.mask) = t.win.iflag ||| IntFlag.stateChg.mask
          rw [← BitVec.or_assoc, BitVec.or_self]
        params := fun _ => rfl, buffers := fun h => h, seats := fun h => ⟨h.nodup, h.queued, h.active, h.hidden⟩
        haltStays := fun hs => absurd (.inr hs) hne
        haltFrom := fun hs => absurd hs h1
        raised := fun _ => by
          show (t.win.iflag ||| IntFlag.stateChg.mask).getLsbD 5 = true
          rw [BitVec.getLsbD_or, getLsbD_stateChg_mask, Bool.or_true]
        after := fun _ => ⟨h2, Nat.le_refl _, Nat.le_refl _, Nat.le_refl _, rfl⟩
        index := fun h => h, plane0 := fun _ h => h, plane1 := fun _ h => h }
    dsimp only
    split
    · exact (h.trans hk).rcl
    · exact (h.trans hk).signal
    · exact h.trans hk

theorem Evolves.declareReadOnly (h : Evolves s t) : Evolves s t.declareReadOnly := by
  unfold State.declareReadOnly
  split
  · exact h.setStore (by decide) (by decide)
  · exact h

/-! ### The space manager -/

theorem Evolves.blankMoved {n : Nat} (h : Evolves s t) : Evolves s (t.blankMoved n) := by
  unfold State.blankMoved
  dsimp only
  split
  · split
    · exact h.raise
    · exact h
  · split
    · exact h.raise.signal
    · exact h.signal

theorem Evolves.setSector {n : SectorNo} {e : SectorEntry} (h : Evolves s t) : Evolves s (t.setSector n e) := by
  unfold State.setSector
  exact (h.putSector.rcl).blankMoved

theorem Evolves.closeSector {n : SectorNo} (h : Evolves s t) : Evolves s (t.closeSector n) := h.setSector
theorem Evolves.placeRecord {n : SectorNo} {f : Nat} (h : Evolves s t) : Evolves s (t.placeRecord n f) := h.setSector
theorem Evolves.givePlaceBack {p : Place} {f : Nat} (h : Evolves s t) : Evolves s (t.givePlaceBack p f) := h.setSector
theorem Evolves.recordLive {n : SectorNo} {f : Nat} (h : Evolves s t) : Evolves s (t.recordLive n f) := h.setSector
theorem Evolves.recordRetired {n : SectorNo} {f : Nat} (h : Evolves s t) : Evolves s (t.recordRetired n f) := h.setSector
theorem Evolves.sectorFaulted {n : SectorNo} (h : Evolves s t) : Evolves s (t.sectorFaulted n) := h.setSector
theorem Evolves.sectorOut {n : SectorNo} {x : SectorState} (h : Evolves s t) : Evolves s (t.sectorOut n x) := h.setSector
theorem Evolves.sectorHeaded {n : SectorNo} (h : Evolves s t) : Evolves s (t.sectorHeaded n) := h.setSector
theorem Evolves.sectorErased {n : SectorNo} (h : Evolves s t) : Evolves s (t.sectorErased n) := h.setSector
theorem Evolves.sectorOpened {n : SectorNo} {x : SectorState} {q : Nat} (h : Evolves s t) : Evolves s (t.sectorOpened n x q) :=
  h.setSector
theorem Evolves.openingFaulted {n : SectorNo} (h : Evolves s t) : Evolves s (t.openingFaulted n) := h.setSector
theorem Evolves.backToFull {n : SectorNo} (h : Evolves s t) : Evolves s (t.backToFull n) := h.setSector

theorem Evolves.retireSector {n : SectorNo} (h : Evolves s t) : Evolves s (t.retireSector n) := by
  unfold State.retireSector
  dsimp only
  split
  · exact h.sectorOut.declareReadOnly
  · exact h.sectorOut

theorem Evolves.identityFaulted {n : SectorNo} (h : Evolves s t) : Evolves s (t.identityFaulted n) := h.setSector.retireSector

/-! ### Claims on the planes -/

theorem Evolves.claim {c : Claim} (h : Evolves s t) : Evolves s (t.claim c) := by
  rcases t.claim_cases c with e | e | ⟨q, e, hq⟩
  · rw [e]
    exact h.signal
  · rw [e]
    exact h.signal
  · rw [e]
    refine h.setPlane fun hs hp => ?_
    rcases hq with rfl | ⟨e, he, rfl⟩
    · exact Plane.arriveFree_sound hp hs c
    · exact Plane.arriveInErase_sound hp he hs c

theorem Evolves.claimRead {who : Claimant} {n : SectorNo} {f c : Nat} (h : Evolves s t) : Evolves s (t.claimRead who n f c) := h.claim
theorem Evolves.claimProgram {who : Claimant} {n : SectorNo} {f : Nat} {d : List Byte} {m : Verify} (h : Evolves s t) :
    Evolves s (t.claimProgram who n f d m) := h.claim
theorem Evolves.claimErase {who : Claimant} {n : SectorNo} (h : Evolves s t) : Evolves s (t.claimErase who n) := h.claim

theorem Evolves.withdraw {who : Claimant} (h : Evolves s t) : Evolves s (t.withdraw who) :=
  h.planes (fun _ hp => Plane.withdraw_sound hp who) (fun _ hp => Plane.withdraw_sound hp who)

theorem Evolves.askStop {who : Claimant} (h : Evolves s t) : Evolves s (t.askStop who) :=
  h.planes (fun _ hp => Plane.askStop_sound hp who) (fun _ hp => Plane.askStop_sound hp who)

/-! ### Slots, endings and the taking of the head -/

theorem cellInsert_bounded {k : Nat} {c : Host.Cell} (hc : c.1 < k) : ∀ {m : List Host.Cell}, (m.all fun c => decide (c.1 < k)) = true →
    ((cellInsert c m).all fun c => decide (c.1 < k)) = true
  | [], _ => by simp [cellInsert, hc]
  | e :: m, h => by
    unfold cellInsert
    split
    · simpa [hc] using h
    · have h' : e.1 < k ∧ (m.all fun c => decide (c.1 < k)) = true := by simpa using h
      rw [List.all_cons, cellInsert_bounded hc h'.2, Bool.and_true]
      exact decide_eq_true h'.1

theorem cellSet_bounded {d : Byte} {k a : Nat} {b : Byte} {m : List Host.Cell} (h : (m.all fun c => decide (c.1 < k)) = true)
    (ha : a < k) : ((cellSet d m a b).all fun c => decide (c.1 < k)) = true := by
  have hf : ((m.filter fun c => c.1 != a).all fun c => decide (c.1 < k)) = true := by
    rw [List.all_eq_true] at h ⊢
    exact fun c hc => h c (List.mem_filter.1 hc).1
  unfold cellSet
  dsimp only
  split
  · exact hf
  · exact cellInsert_bounded ha hf

theorem cellWrite_bounded {d : Byte} {k : Nat} : ∀ (bs : List Byte) {m : List Host.Cell} {a : Nat},
    (m.all fun c => decide (c.1 < k)) = true → a + bs.length ≤ k → ((cellWrite d m a bs).all fun c => decide (c.1 < k)) = true
  | [], _, _, h, _ => h
  | b :: bs, m, a, h, hl => by
    have hl : a + (bs.length + 1) ≤ k := hl
    exact cellWrite_bounded bs (cellSet_bounded h (by omega)) (by omega)

/-- A byte stored at a position of the buffer keeps its form (R106). -/
theorem bufferSound_set {m : List Host.Cell} (h : bufferSound m = true) (i b : Byte) : bufferSound (cellSet 0 m i.toNat b) = true := by
  unfold bufferSound at h ⊢
  rw [Bool.and_eq_true] at h ⊢
  exact ⟨cellsWf_cellSet h.1 _ _, cellSet_bounded h.2 i.isLt⟩

/-- A slot's buffer filled keeps its form. -/
theorem Slot.fillBuffer_sound {x : Slot} {bs : List Byte} (h : bufferSound x.buffer = true) :
    bufferSound (x.fillBuffer bs).buffer = true := by
  unfold bufferSound at h ⊢
  rw [Bool.and_eq_true] at h ⊢
  refine ⟨cellsWf_cellWrite _ _ h.1, cellWrite_bounded _ h.2 ?_⟩
  rw [List.length_take]
  omega

theorem Evolves.fillBuffer {n : SlotNo} {bs : List Byte} (h : Evolves s t) : Evolves s (t.setSlot n ((t.slot n).fillBuffer bs)) :=
  h.setSlot rfl Slot.fillBuffer_sound rfl rfl

/-- The hold and the waiter set. -/
theorem Evolves.marks {o w : Option Nat} (h : Evolves s t) : Evolves s { t with idx := { t.idx with hold := o, waiter := w } } :=
  h.idx fun h => h.congr rfl rfl

theorem Evolves.dropWaiter (h : Evolves s t) : Evolves s t.dropWaiter := h.marks

theorem Evolves.releaseHold (h : Evolves s t) : Evolves s t.releaseHold := by
  unfold State.releaseHold
  split
  · exact h
  · exact h.marks.signal

end Sys2Proof.Machine
end

