-- ==== Sys2Proof/Laws/PerInstr.lean ====
section
/-! SUPPORT. Statements about every command as syntax: what a well-formed command carries of flash content, one lemma per
constructor. -/

namespace Sys2Proof.Laws

/-- The sector contents that a command carries, each a list of bytes by offset. -/
def carried : Instr → List (List Host.Cell)
  | .chipReset _ t0 t1 => [t0.sector, t1.sector]
  | .powerFailHalt l0 l1 => [l0, l1]
  | .claim => []
  | .submit => []
  | .discard => []
  | .abort => []
  | .release => []
  | .actionCode _ => []
  | .windowReset _ => []
  | .reclaimMode _ => []
  | .iflagWrite _ => []
  | .imaskWrite _ => []
  | .lowmkWrite _ => []
  | .suslimWrite _ => []
  | .wearspWrite _ => []
  | .slotselWrite _ => []
  | .bdataRead => []
  | .bdataWrite _ => []
  | .bptrWrite _ => []
  | .paramWrite _ _ => []
  | .readOnlyByteWrite _ _ => []
  | .read => []
  | .write => []
  | .delete => []
  | .findNext => []
  | .report => []
  | .reclaim => []
  | .classSet => []
  | .classFreeze => []
  | .format => []
  | .badRequest => []
  | .readRunDone _ _ => []
  | .granuleProgramDone _ _ => []
  | .programTimeout _ _ => []
  | .eraseBlankCheck _ l => [l]
  | .eraseTimeout _ l => [l]
  | .suspendComplete _ => []
  | .select => []

/-- Every cell of a well-formed sector content lies in the sector and holds a byte that an erased sector would not. -/
theorem sectorCellsWf_mem : ∀ {l : List Host.Cell}, sectorCellsWf l = true → ∀ c ∈ l, c.1 < 4096 ∧ c.2 ≠ 0xFF
  | [], _, _, h => by cases h
  | [d], hw, c, h => by
    simp [sectorCellsWf] at hw
    simp at h
    subst h
    simpa using hw
  | d :: e :: m, hw, c, h => by
    simp only [sectorCellsWf, Bool.and_eq_true] at hw
    cases h with
    | head => exact ⟨of_decide_eq_true hw.1.1.2, by simpa using hw.1.2⟩
    | tail _ h => exact sectorCellsWf_mem hw.2 c h

/-- A well-formed command carries only cells of one sector that an erased sector would not hold, and no word of the table spells
the command. -/
def CarriedContent.Statement (i : Instr) : Prop :=
  (i.wellFormed = true → ∀ l ∈ carried i, ∀ c ∈ l, c.1 < 4096 ∧ c.2 ≠ 0xFF) ∧ ∀ nbits w, decodeTableWord nbits w ≠ some i

/-- The statement for a command that carries no sector content. -/
theorem carriedContent_of_nil {i : Instr} (h : carried i = []) : CarriedContent.Statement i :=
  ⟨fun _ l hl => by simp [h] at hl, fun _ _ => by simp [decodeTableWord]⟩

/-- The statement for a command whose well-formedness makes each content it carries well formed. -/
theorem carriedContent_of_wf {i : Instr} (h : i.wellFormed = true → ∀ l ∈ carried i, sectorCellsWf l = true) :
    CarriedContent.Statement i :=
  ⟨fun hw l hl c hc => sectorCellsWf_mem (h hw l hl) c hc, fun _ _ => by simp [decodeTableWord]⟩

theorem CarriedContent.chipReset (edge : ResetEdge) (torn0 torn1 : Torn) :
    CarriedContent.Statement (.chipReset edge torn0 torn1) := by
  cases edge <;>
    exact carriedContent_of_wf (by simp +contextual [Instr.wellFormed, ResetEdge.wf, Torn.wf, Torn.none, carried, sectorCellsWf])
theorem CarriedContent.powerFailHalt (left0 left1 : List Host.Cell) :
    CarriedContent.Statement (.powerFailHalt left0 left1) :=
  carriedContent_of_wf (by simp +contextual [Instr.wellFormed, carried])
theorem CarriedContent.claim : CarriedContent.Statement (.claim) := carriedContent_of_nil rfl
theorem CarriedContent.submit : CarriedContent.Statement (.submit) := carriedContent_of_nil rfl
theorem CarriedContent.discard : CarriedContent.Statement (.discard) := carriedContent_of_nil rfl
theorem CarriedContent.abort : CarriedContent.Statement (.abort) := carriedContent_of_nil rfl
theorem CarriedContent.release : CarriedContent.Statement (.release) := carriedContent_of_nil rfl
theorem CarriedContent.actionCode (value : Byte) : CarriedContent.Statement (.actionCode value) :=
  carriedContent_of_nil rfl
theorem CarriedContent.windowReset (low : BitVec 7) : CarriedContent.Statement (.windowReset low) :=
  carriedContent_of_nil rfl
theorem CarriedContent.reclaimMode (low : BitVec 7) : CarriedContent.Statement (.reclaimMode low) :=
  carriedContent_of_nil rfl
theorem CarriedContent.iflagWrite (value : Byte) : CarriedContent.Statement (.iflagWrite value) :=
  carriedContent_of_nil rfl
theorem CarriedContent.imaskWrite (value : Byte) : CarriedContent.Statement (.imaskWrite value) :=
  carriedContent_of_nil rfl
theorem CarriedContent.lowmkWrite (value : Byte) : CarriedContent.Statement (.lowmkWrite value) :=
  carriedContent_of_nil rfl
theorem CarriedContent.suslimWrite (value : Byte) : CarriedContent.Statement (.suslimWrite value) :=
  carriedContent_of_nil rfl
theorem CarriedContent.wearspWrite (value : Byte) : CarriedContent.Statement (.wearspWrite value) :=
  carriedContent_of_nil rfl
theorem CarriedContent.slotselWrite (value : Byte) : CarriedContent.Statement (.slotselWrite value) :=
  carriedContent_of_nil rfl
theorem CarriedContent.bdataRead : CarriedContent.Statement (.bdataRead) := carriedContent_of_nil rfl
theorem CarriedContent.bdataWrite (value : Byte) : CarriedContent.Statement (.bdataWrite value) :=
  carriedContent_of_nil rfl
theorem CarriedContent.bptrWrite (value : Byte) : CarriedContent.Statement (.bptrWrite value) :=
  carriedContent_of_nil rfl
theorem CarriedContent.paramWrite (which : ParamByte) (value : Byte) :
    CarriedContent.Statement (.paramWrite which value) :=
  carriedContent_of_nil rfl
theorem CarriedContent.readOnlyByteWrite (which : ReadOnlyByte) (value : Byte) :
    CarriedContent.Statement (.readOnlyByteWrite which value) :=
  carriedContent_of_nil rfl
theorem CarriedContent.read : CarriedContent.Statement (.read) := carriedContent_of_nil rfl
theorem CarriedContent.write : CarriedContent.Statement (.write) := carriedContent_of_nil rfl
theorem CarriedContent.delete : CarriedContent.Statement (.delete) := carriedContent_of_nil rfl
theorem CarriedContent.findNext : CarriedContent.Statement (.findNext) := carriedContent_of_nil rfl
theorem CarriedContent.report : CarriedContent.Statement (.report) := carriedContent_of_nil rfl
theorem CarriedContent.reclaim : CarriedContent.Statement (.reclaim) := carriedContent_of_nil rfl
theorem CarriedContent.classSet : CarriedContent.Statement (.classSet) := carriedContent_of_nil rfl
theorem CarriedContent.classFreeze : CarriedContent.Statement (.classFreeze) := carriedContent_of_nil rfl
theorem CarriedContent.format : CarriedContent.Statement (.format) := carriedContent_of_nil rfl
theorem CarriedContent.badRequest : CarriedContent.Statement (.badRequest) := carriedContent_of_nil rfl
theorem CarriedContent.readRunDone (plane : PlaneId) (granules : Nat) :
    CarriedContent.Statement (.readRunDone plane granules) :=
  carriedContent_of_nil rfl
theorem CarriedContent.granuleProgramDone (plane : PlaneId) (flaw : Option (List Byte)) :
    CarriedContent.Statement (.granuleProgramDone plane flaw) :=
  carriedContent_of_nil rfl
theorem CarriedContent.programTimeout (plane : PlaneId) (kept : List Byte) :
    CarriedContent.Statement (.programTimeout plane kept) :=
  carriedContent_of_nil rfl
theorem CarriedContent.eraseBlankCheck (plane : PlaneId) (left : List Host.Cell) :
    CarriedContent.Statement (.eraseBlankCheck plane left) :=
  carriedContent_of_wf (by simp +contextual [Instr.wellFormed, carried])
theorem CarriedContent.eraseTimeout (plane : PlaneId) (left : List Host.Cell) :
    CarriedContent.Statement (.eraseTimeout plane left) :=
  carriedContent_of_wf (by simp +contextual [Instr.wellFormed, carried])
theorem CarriedContent.suspendComplete (plane : PlaneId) : CarriedContent.Statement (.suspendComplete plane) :=
  carriedContent_of_nil rfl
theorem CarriedContent.select : CarriedContent.Statement (.select) := carriedContent_of_nil rfl

end Sys2Proof.Laws
end

