-- ==== Sys2Proof/Laws/Window.lean ====
section
/-! SUPPORT. The host's accesses: which form an access takes, in the terms of the slot's state. -/

namespace Sys2Proof.Machine

theorem State.windowFault_eq (s : State) (f : WindowFault) :
    s.windowFault f = { s with win := { s.win with fault := f, iflag := s.win.iflag ||| 0x40 } } := rfl

theorem State.selectedIn_iff (s : State) (x : SlotState) :
    s.selectedIn x = true ↔ s.selected.state = x ∧ s.selected.hidden = false := by
  unfold State.selectedIn
  cases s.selected.hidden <;> simp

theorem State.selected_setSlot (s : State) (x : Slot) : (s.setSlot s.win.sel x).selected = x := by
  change (s.setSlot s.win.sel x).slot s.win.sel = x
  rw [State.slot_set, if_pos rfl]

theorem Slot.bufferOpen_iff (x : Slot) :
    x.bufferOpen = true ↔ x.hidden = false ∧ (x.state = .free ∨ x.state = .opened ∨ x.state = .done) := by
  unfold Slot.bufferOpen
  cases x.hidden <;> simp [or_assoc]

theorem State.access_open {s : State} (h : s.resetLow = false) (t : State) : s.access t = t := by
  unfold State.access
  rw [h, if_neg Bool.false_ne_true]

theorem State.access_held {s : State} (h : s.resetLow = true) (t : State) : s.access t = s := by
  unfold State.access
  rw [h, if_pos rfl]

theorem execAbort_active {s : State} (hl : s.resetLow = false) (h1 : s.selected.state = .active) (h2 : s.selected.hidden = false) :
    execAbort s = .next s.abortRequest.settle := by
  have h3 : ¬ s.selectedIn .queued = true := by
    rw [State.selectedIn_iff, h1]; simp
  unfold execAbort State.abortAction
  rw [State.access_open hl, if_neg h3, if_pos ((State.selectedIn_iff _ _).2 ⟨h1, h2⟩)]

/-- The places of the queue after one slot has left it. -/
theorem idxOf_filter {q : List SlotNo} {a : SlotNo} (hq : q.Nodup) (ha : a ∈ q) : ∀ n ∈ q, n ≠ a →
    q.idxOf n = (q.filter (fun m => m != a)).idxOf n + if q.idxOf a < q.idxOf n then 1 else 0 := by
  induction q with
  | nil => simp
  | cons b q ih =>
    intro n hm hna
    rw [List.nodup_cons] at hq
    by_cases hb : b = a
    · subst hb
      have e : q.filter (fun m => m != b) = q := List.filter_eq_self.2 (fun x hx => by
        simp only [bne_iff_ne, ne_eq]; rintro rfl; exact hq.1 hx)
      have hb : b ≠ n := Ne.symm hna
      simp [e, hb]
    · have ha' : a ∈ q := by simpa [Ne.symm hb] using ha
      have e : (b :: q).filter (fun m => m != a) = b :: q.filter (fun m => m != a) := by simp [hb]
      rw [e]
      by_cases hbn : b = n
      · subst hbn; simp [List.idxOf_cons]
      · have hm' : n ∈ q := by simpa [Ne.symm hbn] using hm
        have h := ih hq.2 ha' n hm' hna
        have e1 : (b == n) = false := by simpa using hbn
        have e2 : (b == a) = false := by simpa using hb
        simp only [List.idxOf_cons, e1, e2, cond_false]
        split at h <;> split <;> omega

theorem State.withdraw_request_none {s : State} (h0 : s.pl0.waitReq = none) (h1 : s.pl1.waitReq = none) :
    s.withdraw .request = s := by
  have e0 : ({ s.pl0 with waitReq := none } : Plane) = s.pl0 := by rw [← h0]
  have e1 : ({ s.pl1 with waitReq := none } : Plane) = s.pl1 := by rw [← h1]
  unfold State.withdraw Plane.withdraw
  dsimp only
  rw [e0, e1]

theorem clamp_eq {lo hi : Nat} (h : lo ≤ hi) (n : Nat) : clamp lo hi n = max lo (min hi n) := by
  unfold clamp
  split <;> try split
  all_goals omega

theorem IntFlag.bit_lt (f : IntFlag) : f.bit < 8 := by
  cases f with
  | slotDone n => exact Nat.lt_of_lt_of_le n.isLt (by decide)
  | _ => decide

theorem IntFlag.exists_bit {i : Nat} (h : i < 8) : ∃ f : IntFlag, f.bit = i := by
  by_cases h4 : i < 4
  · exact ⟨.slotDone ⟨i, h4⟩, rfl⟩
  · obtain rfl | rfl | rfl | rfl : i = 4 ∨ i = 5 ∨ i = 6 ∨ i = 7 := by omega
    · exact ⟨.spaceLow, rfl⟩
    · exact ⟨.stateChg, rfl⟩
    · exact ⟨.fault, rfl⟩
    · exact ⟨.reclaimDone, rfl⟩

theorem State.windowReset_slot (s : State) (low : BitVec 7) (n : SlotNo) :
    ({ s with win := s.win.windowReset low } : State).slot n = (s.slot n).windowReset := by
  simp [State.slot, Window.windowReset]

theorem State.startTest_becomes (s : State) : s.Becomes s.startTest := by
  obtain ⟨x, h, hx⟩ := s.startTest_eq
  rw [h]
  exact ⟨rfl, hx⟩

end Sys2Proof.Machine
end

