-- ==== Sys2Proof/Laws/Rows.lean ====
section
/-! SUPPORT. The rows of the request engine where their request is due, a claim that an idle plane grants at once, and a change of a
sector table entry that leaves the sector's state alone. -/

namespace Sys2Proof.Machine

/-! ### Rows -/

theorem State.takeHead_active {s : State} {r : Request} (h : s.eng.req = some r) : s.takeHead = s := by
  unfold State.takeHead
  split
  · rename_i h' _
    rw [h] at h'
    cases h'
  · rfl

/-- A row whose request is due carries the request on from its taking. -/
theorem State.serve_active {s : State} {r : Request} {ok : Params → Bool} {start : Request → State → State} (h : s.eng.req = some r)
    (ht : r.phase = .taken) (hs : s.eng.store ≠ .halted) (ho : ok r.params = true) : s.serve ok start = (start r s).settle := by
  unfold State.serve
  dsimp only
  rw [State.takeHead_active h, h]
  dsimp only
  rw [if_pos]
  simp [Request.dueAt, ht, ho, hs]

theorem State.serve_due {s : State} {r : Request} {ok : Params → Bool} {start : Request → State → State} (h : s.Due r)
    (ho : ok r.params = true) : s.serve ok start = (start r s).settle :=
  State.serve_active h.active h.taken h.unhalted ho

theorem State.Standing.ended {s : State} {r : Request} (h : s.Standing r) (code : ResultCode) (f : ResultFields) :
    s.Ended (s.endRequest r code f).settle r.slot code f r.flags :=
  State.endRequest_ended h.quiet h.noHold h.noWaiter h.visible h.notQueued

theorem Params.isCode_of {p : Params} {c : Byte} (hc : p.rq = c) (h1 : 1 ≤ c.toNat) (h9 : c.toNat ≤ 9)
    (ho : ¬(p.opt.getLsbD 0 = true ∧ p.opt.getLsbD 1 = true)) : p.isCode c = true := by
  subst hc
  unfold Params.isCode Params.bad Params.ifVersion Params.ifAbsent
  cases e0 : p.opt.getLsbD 0 <;> cases e1 : p.opt.getLsbD 1 <;> simp_all

theorem State.atLookup_taken {s : State} {r : Request} (h : s.eng.req = some r) (ht : r.phase ≠ .lookup) : s.atLookup = none := by
  unfold State.atLookup
  rw [h]
  dsimp only
  rw [if_neg ht]

theorem execRead_due {s : State} {r : Request} (h : s.Due r) (ho : r.params.isCode codeRead = true) :
    execRead s = .next (r.startRead s).settle := by
  unfold execRead
  rw [State.atLookup_taken h.active (by rw [h.taken]; exact fun h => nomatch h)]
  dsimp only
  rw [State.serve_due h ho]

theorem Request.refusedBy_ready {r : Request} (h : r.admitted = .ready) (change : Bool) : r.refusedBy change = none := by
  unfold Request.refusedBy
  rw [h]

theorem keyIsInvalid_iff {k : Nat} : keyIsInvalid k = true ↔ k = 0 ∨ 0xFF08 ≤ k := by
  simp [keyIsInvalid]

theorem keyIsSystem_iff {k : Nat} : keyIsSystem k = true ↔ 0xFF00 ≤ k ∧ k ≤ 0xFF07 := by
  simp [keyIsSystem]

theorem State.classEntry_of_lt {s : State} {c : Nat} (h : c < 8) : s.classEntry c = s.classes[c] := by
  unfold State.classEntry
  rw [dif_pos h]

/-! ### Claims on an idle plane -/

theorem State.claim_idle {s : State} {c : Claim} (h : (s.plane (planeOf c.sector)).Idle) (hw : c.work.isErase = false) :
    s.claim c = s.setPlane (planeOf c.sector) ((s.plane (planeOf c.sector)).withRun c.who c.sector c.first c.work) := by
  obtain ⟨h1, h2, -, -, h5⟩ := h
  have hg : ∀ (p : Plane) (k : Nat), p.grant k c = p.withRun c.who c.sector c.first c.work := by
    intro p k
    obtain ⟨a, b, d, w⟩ := c
    cases w with
    | erase => cases hw
    | read n => rfl
    | program d m => rfl
  unfold State.claim
  dsimp only
  rw [h5]
  simp only [Bool.false_eq_true, if_false, h2]
  unfold Plane.arriveFree
  rw [h1]
  simp only [Option.isNone_none, if_true]
  rw [hg]

theorem State.setReq_setPlane (s : State) (r : Request) (p : PlaneId) (x : Plane) :
    (s.setReq r).setPlane p x = (s.setPlane p x).setReq r := by
  cases p <;> rfl

/-- The ACTIVE request changed and a run claimed on an idle plane. -/
theorem State.setReq_claim_idle {s : State} {r : Request} {c : Claim} (h : (s.plane (planeOf c.sector)).Idle)
    (hw : c.work.isErase = false) : (s.setReq r).claim c =
      (s.setPlane (planeOf c.sector) ((s.plane (planeOf c.sector)).withRun c.who c.sector c.first c.work)).setReq r := by
  rw [State.claim_idle (s := s.setReq r) h hw, State.setReq_setPlane]
  rfl

/-! ### Changes that leave a sector's state alone -/

theorem countP_set_same {l : List SectorEntry} {i : Nat} (h : i < l.length) {p : SectorEntry → Bool} {e : SectorEntry}
    (he : p e = p l[i]) : (l.set i e).countP p = l.countP p := by
  rw [List.countP_set h, he]
  split
  · have : 0 < l.countP p := List.countP_pos_iff.2 ⟨l[i], List.getElem_mem h, by assumption⟩
    omega
  · omega

theorem State.countState_putSector {s : State} {n : SectorNo} {e : SectorEntry} (st : SectorState)
    (h : (e.state == st) = ((s.sector n).state == st)) : (s.putSector n e).space.countState st = s.space.countState st := by
  unfold Space.countState State.putSector
  dsimp only
  rw [Vector.toList_set]
  apply countP_set_same
  rw [h]
  congr 1

theorem State.blankMoved_same {s : State} {k : Nat} (h : s.space.blankCount = k) : s.blankMoved k = s := by
  unfold State.blankMoved
  dsimp only
  rw [h, if_pos rfl, if_neg (by omega)]

/-- A change of an entry that leaves its state and clears no latch. -/
theorem State.setSector_same {s : State} {n : SectorNo} {e : SectorEntry} (h : e.state = (s.sector n).state)
    (hc : clearsLatch (s.sector n) e = false) : s.setSector n e = s.putSector n e := by
  unfold State.setSector
  dsimp only
  rw [hc, if_neg (by rw [h]; exact fun k => k.2 k.1)]
  rw [State.blankMoved_same]
  · simp only [Bool.not_false, Bool.and_true]
  · change (s.putSector n e).space.blankCount = _
    exact State.countState_putSector _ (by rw [h])

/-- A change of an entry that leaves its state. -/
theorem State.setSector_state {s : State} {n : SectorNo} {e : SectorEntry} (h : e.state = (s.sector n).state) :
    s.setSector n e = { s.putSector n e with rcl := { s.rcl with noVictim := s.rcl.noVictim && !clearsLatch (s.sector n) e } } := by
  unfold State.setSector
  dsimp only
  rw [if_neg (by rw [h]; exact fun k => k.2 k.1)]
  rw [State.blankMoved_same]
  · rfl
  · change (s.putSector n e).space.blankCount = _
    exact State.countState_putSector _ (by rw [h])

end Sys2Proof.Machine
end

