-- ==== Sys2Proof/Laws/Runs.lean ====
section
/-! SUPPORT. The end of a run or of an erase on a plane where nothing else is in hand, and the publishing of a record. -/

namespace Sys2Proof.Machine

theorem Plane.finishRun_idle {p : Plane} (h : ({ p with run := none } : Plane).Idle) (k : Nat) :
    p.finishRun k = { p with run := none } := by
  obtain ⟨-, h2, h3, h4, h5⟩ := h
  dsimp only at h2 h3 h4 h5
  simp [Plane.finishRun, Plane.regrant, h2, h3, h4, h5]

theorem Plane.finishErase_idle {p : Plane} (h : ({ p with erase := none } : Plane).Idle) (k : Nat) :
    p.finishErase k = { p with erase := none } := by
  obtain ⟨h1, -, h3, h4, h5⟩ := h
  dsimp only at h1 h3 h4 h5
  simp [Plane.finishErase, Plane.regrant, h1, h3, h4, h5]

/-- The end of a run: the claimant acts on the answer, and what that tells others follows. -/
theorem State.runEnded_eq {s : State} {p : PlaneId} (ha : s.agenda = []) (who : Claimant) (a : Answer) :
    s.runEnded p who a =
      (((s.setPlane p ((s.plane p).finishRun s.win.suslim)).deliver (.answer who a)).drain 255).startTest := by
  unfold State.runEnded
  rw [State.settle_answer (by rw [State.setPlane_agenda, ha])]

/-- The end of an erase: the claimant acts on the answer, and what that tells others follows. -/
theorem State.eraseEnded_eq {s : State} {p : PlaneId} (ha : s.agenda = []) (who : Claimant) (a : Answer) :
    s.eraseEnded p who a =
      (((s.setPlane p ((s.plane p).finishErase s.win.suslim)).deliver (.answer who a)).drain 255).startTest := by
  unfold State.eraseEnded
  rw [State.settle_answer (by rw [State.setPlane_agenda, ha])]

theorem cellGet_fill (y : List Host.Cell) (bs : List Byte) (i : Nat) :
    cellGet 0 (cellWrite 0 y 0 bs) i = if h : i < bs.length then bs[i] else cellGet 0 y i := by
  split
  · next h => simpa using cellGet_cellWrite_in 0 bs y 0 i h
  · next h => exact cellGet_cellWrite_out 0 bs y 0 i (by omega)

/-! ### A granule of a program run -/

theorem getD_zipWith_and (a b : List Byte) (i : Nat) : (List.zipWith (· &&& ·) a b).getD i 0 = a.getD i 0 &&& b.getD i 0 := by
  simp only [List.getD_eq_getElem?_getD, List.getElem?_zipWith]
  cases a[i]? <;> cases b[i]? <;> simp

theorem getD_programmed (a b : List Byte) (i : Nat) : (programmed a b).getD i 0 = a.getD i 0 &&& b.getD i 0 := getD_zipWith_and a b i

theorem getD_granuleData (data : List Byte) (done : Nat) {i : Nat} (h : i < 8) :
    (granuleData data done).getD i 0 = data.getD (8 * done + i) 0 := by
  simp only [granuleData, List.getD_eq_getElem?_getD, List.getElem?_take, List.getElem?_drop, if_pos h]

theorem length_programmed {a b : List Byte} (ha : a.length = 8) (hb : b.length = 8) : (programmed a b).length = 8 := by
  simp [programmed, ha, hb]

theorem length_granuleData {data : List Byte} {done : Nat} (h : 8 * (done + 1) ≤ data.length) : (granuleData data done).length = 8 := by
  simp [granuleData]; omega

theorem allErased_zeros (l : List Byte) (h : l.length = 8) : allErased (programmed l markGranule) = false := by
  obtain ⟨a, l, rfl⟩ := List.exists_cons_of_length_eq_add_one (n := 7) h
  simp [programmed, markGranule, allErased, List.replicate, Config.erasedByte]

theorem granuleData_whole {data : List Byte} (h : data.length = 8) : granuleData data 0 = data := by
  simp [granuleData, h]

theorem programmed_erased {data : List Byte} (h : data.length = 8) : programmed (List.replicate 8 0xFF) data = data := by
  apply List.ext_getElem
  · simp [programmed, h]
  · intro i h1 h2
    simp only [programmed, List.getElem_zipWith, List.getElem_replicate]
    exact BitVec.allOnes_and

theorem State.setGranule_eq (s : State) (c : Claim) (k : Nat) (g : List Byte) :
    s.setGranule c k g = { s with flash := flashWrite s.flash c.sector (8 * (c.first + k)) g } := rfl

/-- The one granule of a program run verifies and nothing else is in hand on the plane: the claimant is answered DONE. -/
theorem execGranule_last {s : State} {p : PlaneId} {u : Run} {data : List Byte} {mode : Verify} (ha : s.agenda = [])
    (hu : (s.plane p).run = some u) (hw : u.claim.work = .program data mode) (h5 : u.claim.first + u.done < 512)
    (hl : data.length / 8 ≤ u.done + 1) (hs : u.stop = false)
    (hv : verifies mode (granuleData data u.done) (programmed (s.granuleAt u.claim u.done) (granuleData data u.done)) = true)
    (hi : ({ s.plane p with run := none } : Plane).Idle) :
    execGranuleProgramDone p none s = .next
      ((({ s.setPlane p { s.plane p with run := none } with
          flash := flashWrite s.flash u.claim.sector (8 * (u.claim.first + u.done))
            (programmed (s.granuleAt u.claim u.done) (granuleData data u.done)) }.deliver
        (.answer u.claim.who (.done (data.length / 8)))).drain 255).startTest) := by
  unfold execGranuleProgramDone
  rw [hu]
  dsimp only
  rw [hw]
  dsimp only [Option.getD]
  rw [if_neg (by change ¬ 512 ≤ _; omega), if_pos hv]
  unfold State.granuleVerified
  rw [hs, Bool.false_and, if_neg Bool.false_ne_true, if_pos hl]
  rw [State.runEnded_eq (by exact ha)]
  rw [show (s.setGranule u.claim u.done (programmed (s.granuleAt u.claim u.done) (granuleData data u.done))).plane p = s.plane p by
    cases p <;> rfl]
  rw [Plane.finishRun_idle hi, State.setGranule_eq]
  cases p <;> rfl

theorem clearsLatch_makeLive (e : SectorEntry) (fp : Nat) : clearsLatch e (e.makeLive fp) = false := by
  have : ¬ e.staleBytes < e.staleBytes - fp := by omega
  simp [clearsLatch, SectorEntry.makeLive, this]

theorem clearsLatch_makeStale (e : SectorEntry) {fp : Nat} (h : 0 < fp) :
    clearsLatch e (e.makeStale fp) = (e.state == .full) := by
  have : e.staleBytes < e.staleBytes + fp := by omega
  simp [clearsLatch, SectorEntry.makeStale, this]

end Sys2Proof.Machine
end

