-- ==== Sys2Proof/Laws/Serving.lean ====
section
/-! SUPPORT. The request engine evolves the state it is given (`Evolves`), in the state that its ACTIVE request is served in (`Serving`). -/

namespace Sys2Proof.Machine

set_option Elab.async false

variable {s t : State}

/-! ### The state that a request is served in -/

/-- `t` is a state that the blocks can bring `s` to within a step, in which slot `n` is that of the ACTIVE request. -/
structure Serving (s t : State) (n : SlotNo) : Prop where
  evolves : Evolves s t
  slot : t.activeSlot = some n

theorem Serving.lift {n : SlotNo} {u : State} (h : Serving s t n) (k : Evolves s t → Evolves s u) (e : u.eng.req = t.eng.req) :
    Serving s u n :=
  ⟨k h.evolves, by
    unfold State.activeSlot
    rw [e]
    exact h.slot⟩

theorem Serving.setReq {n : SlotNo} {q : Request} (h : Serving s t n) (e : q.slot = n) : Serving s (t.setReq q) n :=
  ⟨h.evolves.trans
    { flash := rfl, pending := rfl, halted := rfl, resetLow := rfl, faults := rfl, host := rfl
      iflag := BitVec.or_self
      params := fun _ => rfl, buffers := fun h => h
      seats := fun hs => by
        rw [show t.watched.active = some q.slot from e ▸ h.slot] at hs
        exact hs
      haltStays := fun h => h, haltFrom := fun h => h
      raised := fun h => absurd rfl h
      after := fun h => ⟨h, Nat.le_refl _, Nat.le_refl _, Nat.le_refl _, rfl⟩
      index := fun h => h, plane0 := fun _ h => h, plane1 := fun _ h => h }, congrArg some e⟩

section
variable {n : SlotNo}

theorem Serving.rcl {x : Reclaim} (h : Serving s t n) : Serving s { t with rcl := x } n := h.lift (·.rcl) rfl
theorem Serving.classes {x : Vector ClassEntry 8} (h : Serving s t n) : Serving s { t with classes := x } n := h.lift (·.classes) rfl
theorem Serving.corruptReads {k : Nat} (h : Serving s t n) : Serving s { t with eng := { t.eng with corruptReads := k } } n :=
  h.lift (·.corruptReads) rfl
theorem Serving.signal {x : Signal} (h : Serving s t n) : Serving s (t.signal x) n := h.lift (·.signal) rfl
theorem Serving.withdrawStop (h : Serving s t n) : Serving s t.withdrawStop n := h.lift (·.withdrawStop) rfl
theorem Serving.idx {x : KeyIndex} (h : Serving s t n) (hx : t.idx.Sound → x.Sound) : Serving s { t with idx := x } n :=
  h.lift (fun k => k.idx hx) rfl
theorem Serving.marks {o w : Option Nat} (h : Serving s t n) : Serving s { t with idx := { t.idx with hold := o, waiter := w } } n :=
  h.lift (·.marks) rfl
theorem Serving.dropWaiter (h : Serving s t n) : Serving s t.dropWaiter n := h.marks
theorem Serving.releaseHold (h : Serving s t n) : Serving s t.releaseHold n := h.lift (·.releaseHold) (by simp)
theorem Serving.counters {v g q : Nat} (h : Serving s t n) (hv : t.eng.writeSeq ≤ v) (hg : t.space.gen ≤ g)
    (hq : t.space.seqCtr ≤ q) :
    Serving s { t with eng := { t.eng with writeSeq := v }, space := { t.space with gen := g, seqCtr := q } } n :=
  h.lift (fun k => k.counters hv hg hq) rfl
theorem Serving.takeSeq (h : Serving s t n) : Serving s t.takeSeq n := h.lift (·.takeSeq) rfl
theorem Serving.setStore {x : StoreState} (h : Serving s t n) (h1 : x ≠ .halted) (h2 : x ≠ .mounting) : Serving s (t.setStore x) n :=
  h.lift (fun k => k.setStore h1 h2) (by simp)
theorem Serving.declareReadOnly (h : Serving s t n) : Serving s t.declareReadOnly n := h.lift (·.declareReadOnly) (by simp)
theorem Serving.blankMoved {k : Nat} (h : Serving s t n) : Serving s (t.blankMoved k) n := h.lift (·.blankMoved) (by simp)
theorem Serving.closeSector {m : SectorNo} (h : Serving s t n) : Serving s (t.closeSector m) n := h.lift (·.closeSector) (by simp)
theorem Serving.placeRecord {m : SectorNo} {f : Nat} (h : Serving s t n) : Serving s (t.placeRecord m f) n :=
  h.lift (·.placeRecord) (by simp)
theorem Serving.givePlaceBack {p : Place} {f : Nat} (h : Serving s t n) : Serving s (t.givePlaceBack p f) n :=
  h.lift (·.givePlaceBack) (by simp)
theorem Serving.recordLive {m : SectorNo} {f : Nat} (h : Serving s t n) : Serving s (t.recordLive m f) n :=
  h.lift (·.recordLive) (by simp)
theorem Serving.recordRetired {m : SectorNo} {f : Nat} (h : Serving s t n) : Serving s (t.recordRetired m f) n :=
  h.lift (·.recordRetired) (by simp)
theorem Serving.sectorFaulted {m : SectorNo} (h : Serving s t n) : Serving s (t.sectorFaulted m) n :=
  h.lift (·.sectorFaulted) (by simp)
theorem Serving.sectorOut {m : SectorNo} {x : SectorState} (h : Serving s t n) : Serving s (t.sectorOut m x) n :=
  h.lift (·.sectorOut) (by simp)
theorem Serving.sectorHeaded {m : SectorNo} (h : Serving s t n) : Serving s (t.sectorHeaded m) n := h.lift (·.sectorHeaded) (by simp)
theorem Serving.sectorErased {m : SectorNo} (h : Serving s t n) : Serving s (t.sectorErased m) n := h.lift (·.sectorErased) (by simp)
theorem Serving.sectorOpened {m : SectorNo} {x : SectorState} {q : Nat} (h : Serving s t n) : Serving s (t.sectorOpened m x q) n :=
  h.lift (·.sectorOpened) (by simp)
theorem Serving.openingFaulted {m : SectorNo} (h : Serving s t n) : Serving s (t.openingFaulted m) n :=
  h.lift (·.openingFaulted) (by simp)
theorem Serving.retireSector {m : SectorNo} (h : Serving s t n) : Serving s (t.retireSector m) n := h.lift (·.retireSector) (by simp)
theorem Serving.identityFaulted {m : SectorNo} (h : Serving s t n) : Serving s (t.identityFaulted m) n :=
  h.lift (·.identityFaulted) (by simp)
theorem Serving.withdraw {who : Claimant} (h : Serving s t n) : Serving s (t.withdraw who) n := h.lift (·.withdraw) rfl
theorem Serving.askStop {who : Claimant} (h : Serving s t n) : Serving s (t.askStop who) n := h.lift (·.askStop) rfl
theorem Serving.fillBuffer {m : SlotNo} {bs : List Byte} (h : Serving s t n) :
    Serving s (t.setSlot m ((t.slot m).fillBuffer bs)) n := h.lift (·.fillBuffer) rfl
theorem Serving.claimRead {who : Claimant} {m : SectorNo} {f c : Nat} (h : Serving s t n) : Evolves s (t.claimRead who m f c) :=
  h.evolves.claimRead
theorem Serving.claimProgram {who : Claimant} {m : SectorNo} {f : Nat} {d : List Byte} {v : Verify} (h : Serving s t n) :
    Evolves s (t.claimProgram who m f d v) := h.evolves.claimProgram
theorem Serving.claimErase {who : Claimant} {m : SectorNo} (h : Serving s t n) : Evolves s (t.claimErase who m) := h.evolves.claimErase

end

theorem Serving.req {n : SlotNo} {q : Request} (h : Serving s t n) (e : q.slot = n := by rfl) : Evolves s (t.setReq q) :=
  (h.setReq e).evolves
theorem Serving.reqRead {n : SlotNo} {q : Request} {who : Claimant} {m : SectorNo} {f c : Nat} (h : Serving s t n)
    (e : q.slot = n := by rfl) : Evolves s ((t.setReq q).claimRead who m f c) := (h.req e).claimRead
theorem Serving.reqProgram {n : SlotNo} {q : Request} {who : Claimant} {m : SectorNo} {f : Nat} {d : List Byte} {v : Verify}
    (h : Serving s t n) (e : q.slot = n := by rfl) : Evolves s ((t.setReq q).claimProgram who m f d v) := (h.req e).claimProgram
theorem Serving.reqErase {n : SlotNo} {q : Request} {who : Claimant} {m : SectorNo} (h : Serving s t n)
    (e : q.slot = n := by rfl) : Evolves s ((t.setReq q).claimErase who m) := (h.req e).claimErase

theorem Serving.endRequest {r : Request} {c : ResultCode} {f : ResultFields} {sn : SlotNo} (h : Serving s t sn)
    (hn : r.slot = sn := by rfl) :
    Evolves s (t.endRequest r c f) := by
  subst hn
  unfold State.endRequest
  dsimp only
  have hl : ∀ x : Slot, x.state = .done ∨ x.state = .free → x.hidden = false → t.win.Seated t.activeSlot →
      ({ t.win with slots := t.win.slots.set r.slot x } : Window).Seated none := fun x h1 h2 hs => by
    rw [h.slot] at hs
    exact hs.leave h1 h2
  split
  · exact Evolves.signal (Evolves.releaseHold (Evolves.dropWaiter
      (h.evolves.seat (n := r.slot) (q := t.win.queue) (o := none) rfl (fun k => k) (hl _ (.inr rfl) rfl))))
  · next hh =>
    have hs := h.evolves.seat (n := r.slot) (x := (t.slot r.slot).finish c f r.flags) (q := t.win.queue) (o := none) rfl (fun k => k)
      (hl _ (.inl rfl) (Bool.eq_false_iff.2 hh))
    exact Evolves.signal (Evolves.releaseHold (Evolves.dropWaiter (Evolves.raise (f := .slotDone r.slot) hs)))

theorem Serving.endPlain {r : Request} {c : ResultCode} {sn : SlotNo} (h : Serving s t sn)
    (hn : r.slot = sn := by rfl) : Evolves s (t.endPlain r c) := by
  subst hn
  exact h.endRequest

theorem Evolves.takeHead (h : Evolves s t) : Evolves s t.takeHead := by
  unfold State.takeHead
  split
  · next n l hr hq =>
    split
    · refine h.seat (q := l) (o := some (freshRequest n (t.slot n).params t.eng.store)) rfl (fun k => k) fun hs => ?_
      have : t.activeSlot = none := by
        unfold State.activeSlot
        rw [hr]
        rfl
      rw [this] at hs
      exact hs.take hq rfl
    · exact h
  · exact h

/-! ### The request engine -/

theorem Serving.waitMove {r : Request} {k : Nat} {sn : SlotNo} (h : Serving s t sn)
    (hn : r.slot = sn := by rfl) : Evolves s (r.waitMove k t) := by
  subst hn
  exact h.marks.req

theorem Serving.readLookup {r : Request} {sn : SlotNo} (h : Serving s t sn) (hn : r.slot = sn := by rfl) : Evolves s (r.readLookup t) := by
  subst hn
  unfold Request.readLookup
  split
  · exact h.endPlain
  · exact h.reqRead

theorem Serving.startRead {r : Request} {sn : SlotNo} (h : Serving s t sn) (hn : r.slot = sn := by rfl) : Evolves s (r.startRead t) := by
  subst hn
  unfold Request.startRead
  split
  · exact h.endPlain
  · split
    · exact h.endPlain
    · exact h.readLookup

theorem Serving.reqDeliver {r : Request} {e : Entry} {d : List Byte} {sn : SlotNo} (h : Serving s t sn)
    (hn : r.slot = sn := by rfl) : Serving s (r.deliver e d t) sn := by
  subst hn
  exact h.fillBuffer

theorem Serving.readDone {r : Request} {e : Entry} {d : List Byte} {sn : SlotNo} (h : Serving s t sn)
    (hn : r.slot = sn := by rfl) : Evolves s (r.readDone e d t) := by
  subst hn
  unfold Request.readDone
  dsimp only
  split
  · exact h.reqDeliver.endRequest
  · exact h.reqDeliver.corruptReads.endRequest

theorem Serving.readErasing {r : Request} {e : Entry} {sn : SlotNo} (h : Serving s t sn)
    (hn : r.slot = sn := by rfl) : Evolves s (r.readErasing e t) := by
  subst hn
  unfold Request.readErasing
  split
  · split
    · exact h.req
    · exact h.readLookup
  · exact h.readLookup

theorem Serving.descriptorStep {r : Request} {p : Place} {sn : SlotNo} (h : Serving s t sn)
    (hn : r.slot = sn := by rfl) : Evolves s (r.descriptorStep p t) := by
  subst hn
  unfold Request.descriptorStep
  dsimp only
  split
  · exact h.givePlaceBack.endPlain
  · split
    · exact h.givePlaceBack.waitMove
    · next x old heq =>
      have hi : Serving s { t with idx := x, eng := { t.eng with writeSeq := t.eng.writeSeq + 1 } } r.slot :=
        (h.idx fun hs => KeyIndex.takeHold_sound hs heq).counters (v := t.eng.writeSeq + 1) (Nat.le_succ _) (Nat.le_refl _)
          (Nat.le_refl _)
      split
      · exact hi.declareReadOnly.reqProgram
      · exact hi.reqProgram

theorem Serving.placed {r : Request} {n : SectorNo} {sn : SlotNo} (h : Serving s t sn)
    (hn : r.slot = sn := by rfl) : Evolves s (r.placed n t) := by
  subst hn
  exact h.placeRecord.descriptorStep

theorem Serving.openHost {r : Request} {sn : SlotNo} (h : Serving s t sn) (hn : r.slot = sn := by rfl) : Evolves s (r.openHost t) := by
  subst hn
  unfold Request.openHost
  split
  · exact h.endPlain
  · split
    · exact h.req
    · split
      · split
        · exact h.req
        · exact h.takeSeq.reqProgram
      · exact h.req

theorem Serving.placeStep {r : Request} {sn : SlotNo} (h : Serving s t sn) (hn : r.slot = sn := by rfl) : Evolves s (r.placeStep t) := by
  subst hn
  unfold Request.placeStep
  split
  · split
    · exact h.placed
    · exact h.closeSector.openHost
  · exact h.openHost

theorem Serving.openingAnswer {r : Request} {n : SectorNo} {q : Nat} {a : Answer} {sn : SlotNo} (h : Serving s t sn)
    (hn : r.slot = sn := by rfl) :
    Evolves s (r.openingAnswer n q a t) := by
  subst hn
  unfold Request.openingAnswer
  split
  · exact h.sectorOpened.signal.placeStep
  · exact h.openingFaulted.signal.openHost
  · exact h.evolves

theorem Serving.commitStep {r : Request} {p : Place} {sn : SlotNo} (h : Serving s t sn)
    (hn : r.slot = sn := by rfl) : Evolves s (r.commitStep p t) := by
  subst hn
  exact h.reqProgram

theorem Serving.payloadStep {r : Request} {p : Place} {sn : SlotNo} (h : Serving s t sn)
    (hn : r.slot = sn := by rfl) : Evolves s (r.payloadStep p t) := by
  subst hn
  unfold Request.payloadStep
  split
  · exact h.commitStep
  · exact h.reqProgram

theorem Serving.takeDescriptor {j : WriteJob} {n : SlotNo} (h : Serving s t n) : Serving s (t.takeDescriptor j) n := by
  unfold State.takeDescriptor
  split
  · exact h.classes
  · exact h

theorem KeyIndex.replace_getD_sound {x : KeyIndex} {e : Entry} (h : x.Sound) : ((x.replace e).getD x).Sound := by
  cases hr : x.replace e with
  | none => exact h
  | some y => exact KeyIndex.replace_sound h hr

theorem KeyIndex.remove_getD_sound {x : KeyIndex} {k : Nat} (h : x.Sound) : ((x.remove k).getD x).Sound := by
  cases hr : x.remove k with
  | none => exact h
  | some y => exact KeyIndex.remove_sound h hr

theorem Serving.publish {r : Request} {p : Place} {sn : SlotNo} (h : Serving s t sn)
    (hn : r.slot = sn := by rfl) : Evolves s (r.publish p t) := by
  subst hn
  unfold Request.publish
  dsimp only
  split
  · exact (h.idx KeyIndex.replace_getD_sound).takeDescriptor.endRequest
  · exact (h.idx fun hs => KeyIndex.insert_sound hs _).takeDescriptor.endRequest

theorem Serving.commitDone {r : Request} {p : Place} {sn : SlotNo} (h : Serving s t sn)
    (hn : r.slot = sn := by rfl) : Evolves s (r.commitDone p t) := by
  subst hn
  unfold Request.commitDone
  dsimp only
  split
  · exact h.recordLive.reqProgram
  · exact h.recordLive.publish

theorem Serving.recordFaulted {r : Request} {p : Place} {sn : SlotNo} (h : Serving s t sn)
    (hn : r.slot = sn := by rfl) : Evolves s (r.recordFaulted p t) := by
  subst hn
  unfold Request.recordFaulted
  dsimp only
  split
  · exact h.sectorFaulted.releaseHold.endPlain
  · exact h.sectorFaulted.releaseHold.placeStep

theorem Serving.retireOldAnswer {r : Request} {p : Place} {e : Entry} {a : Answer} {sn : SlotNo} (h : Serving s t sn)
    (hn : r.slot = sn := by rfl) :
    Evolves s (r.retireOldAnswer p e a t) := by
  subst hn
  unfold Request.retireOldAnswer
  split
  · exact h.recordRetired.publish
  · exact h.sectorFaulted.reqProgram
  · exact h.evolves

theorem Serving.retireNewAnswer {r : Request} {p : Place} {a : Answer} {sn : SlotNo} (h : Serving s t sn)
    (hn : r.slot = sn := by rfl) : Evolves s (r.retireNewAnswer p a t) := by
  subst hn
  unfold Request.retireNewAnswer
  split
  · exact h.recordRetired.endPlain
  · exact h.sectorFaulted.declareReadOnly.publish
  · exact h.evolves

theorem Serving.checkWrite {r : Request} {sn : SlotNo} (h : Serving s t sn) (hn : r.slot = sn := by rfl) : Evolves s (r.checkWrite t) := by
  subst hn
  unfold Request.checkWrite
  dsimp only
  repeat' split
  all_goals first
    | with_reducible exact h.endPlain
    | with_reducible exact h.endRequest
    | with_reducible exact h.waitMove
    | exact h.placeStep

theorem Serving.startWrite {r : Request} {sn : SlotNo} (h : Serving s t sn) (hn : r.slot = sn := by rfl) : Evolves s (r.startWrite t) := by
  subst hn
  unfold Request.startWrite
  split
  · exact h.endPlain
  · exact h.checkWrite

theorem Serving.checkClassSet {r : Request} {sn : SlotNo} (h : Serving s t sn)
    (hn : r.slot = sn := by rfl) : Evolves s (r.checkClassSet t) := by
  subst hn
  unfold Request.checkClassSet
  dsimp only
  repeat' split
  all_goals first | with_reducible exact h.endPlain | with_reducible exact h.waitMove | exact h.placeStep

theorem Serving.startClassSet {r : Request} {sn : SlotNo} (h : Serving s t sn)
    (hn : r.slot = sn := by rfl) : Evolves s (r.startClassSet t) := by
  subst hn
  unfold Request.startClassSet
  split
  · exact h.endPlain
  · exact h.checkClassSet

theorem Serving.checkClassFreeze {r : Request} {sn : SlotNo} (h : Serving s t sn)
    (hn : r.slot = sn := by rfl) : Evolves s (r.checkClassFreeze t) := by
  subst hn
  unfold Request.checkClassFreeze
  dsimp only
  repeat' split
  all_goals first | with_reducible exact h.endPlain | with_reducible exact h.waitMove | exact h.placeStep

theorem Serving.startClassFreeze {r : Request} {sn : SlotNo} (h : Serving s t sn)
    (hn : r.slot = sn := by rfl) : Evolves s (r.startClassFreeze t) := by
  subst hn
  unfold Request.startClassFreeze
  split
  · exact h.endPlain
  · exact h.checkClassFreeze

theorem Serving.checkDelete {r : Request} {sn : SlotNo} (h : Serving s t sn) (hn : r.slot = sn := by rfl) :
    Evolves s (r.checkDelete t) := by
  subst hn
  unfold Request.checkDelete
  dsimp only
  split
  · exact h.endPlain
  · split
    · exact h.endPlain
    · split
      · exact h.endPlain
      · split
        · exact h.endPlain
        · split
          · exact h.endRequest
          · split
            · exact h.endPlain
            · split
              · exact h.waitMove
              · next heq => exact (h.idx fun hs => KeyIndex.takeHold_sound hs heq).reqProgram

theorem Serving.startDelete {r : Request} {sn : SlotNo} (h : Serving s t sn) (hn : r.slot = sn := by rfl) :
    Evolves s (r.startDelete t) := by
  subst hn
  unfold Request.startDelete
  split
  · exact h.endPlain
  · exact h.checkDelete

theorem Serving.removed {r : Request} {e : Entry} {sn : SlotNo} (h : Serving s t sn)
    (hn : r.slot = sn := by rfl) : Evolves s (r.removed e t) := by
  subst hn
  exact (h.idx KeyIndex.remove_getD_sound).endRequest

theorem Serving.retireAnswer {r : Request} {e : Entry} {a : Answer} {sn : SlotNo} (h : Serving s t sn)
    (hn : r.slot = sn := by rfl) : Evolves s (r.retireAnswer e a t) := by
  subst hn
  unfold Request.retireAnswer
  split
  · exact h.recordRetired.removed
  · exact h.sectorFaulted.endPlain
  · exact h.evolves

theorem Serving.startFindNext {r : Request} {sn : SlotNo} (h : Serving s t sn)
    (hn : r.slot = sn := by rfl) : Evolves s (r.startFindNext t) := by
  subst hn
  unfold Request.startFindNext
  split
  · exact h.endPlain
  · split
    · exact h.endPlain
    · split
      · exact h.endRequest
      · exact h.endPlain

theorem Serving.startReport {r : Request} {sn : SlotNo} (h : Serving s t sn) (hn : r.slot = sn := by rfl) :
    Evolves s (r.startReport t) := by
  subst hn
  exact h.fillBuffer.endRequest

theorem Serving.startReclaim {r : Request} {sn : SlotNo} (h : Serving s t sn) (hn : r.slot = sn := by rfl) :
    Evolves s (r.startReclaim t) := by
  subst hn
  unfold Request.startReclaim
  split
  · exact h.endPlain
  · split
    · exact h.endPlain
    · exact h.req

theorem Serving.startBad {r : Request} {sn : SlotNo} (h : Serving s t sn) (hn : r.slot = sn := by rfl) : Evolves s (r.startBad t) := by
  subst hn
  exact h.endPlain

theorem Serving.formatEnd {r : Request} {sn : SlotNo} (h : Serving s t sn) (hn : r.slot = sn := by rfl) : Evolves s (r.formatEnd t) := by
  subst hn
  unfold Request.formatEnd
  dsimp only
  refine (h.setStore ?_ ?_).withdrawStop.endPlain
  · split <;> decide
  · split <;> decide

theorem Serving.formatRetire {r : Request} {n : SectorNo} {sn : SlotNo} (h : Serving s t sn)
    (hn : r.slot = sn := by rfl) : Evolves s (r.formatRetire n t) := by
  subst hn
  exact h.reqRead

theorem Serving.formatNext {r : Request} {sn : SlotNo} (h : Serving s t sn) (hn : r.slot = sn := by rfl) : Evolves s (r.formatNext t) := by
  subst hn
  unfold Request.formatNext
  split
  · exact h.formatEnd
  · split
    · exact h.retireSector.formatRetire
    · exact h.sectorOut.reqRead

theorem Serving.formatMark {r : Request} {sn : SlotNo} (h : Serving s t sn) (hn : r.slot = sn := by rfl) : Evolves s (r.formatMark t) := by
  subst hn
  unfold Request.formatMark
  dsimp only
  refine Serving.formatNext (Serving.blankMoved (Serving.setStore ?_ (by decide) (by decide)))
  have h1 := h.counters (v := t.eng.writeSeq) (g := t.space.gen + 1) (q := t.space.seqCtr) (Nat.le_refl _) (Nat.le_succ _)
    (Nat.le_refl _)
  have h2 := h1.idx (x := KeyIndex.reset) fun _ => KeyIndex.reset_sound
  exact ⟨h2.evolves, h2.slot⟩

theorem Serving.startFormat {r : Request} {sn : SlotNo} (h : Serving s t sn) (hn : r.slot = sn := by rfl) :
    Evolves s (r.startFormat t) := by
  subst hn
  unfold Request.startFormat
  dsimp only
  split
  · exact h.endPlain
  · split
    · exact h.rcl.formatMark
    · exact h.rcl.req.signal

theorem Serving.formatErase {r : Request} {n : SectorNo} {sn : SlotNo} (h : Serving s t sn)
    (hn : r.slot = sn := by rfl) : Evolves s (r.formatErase n t) := by
  subst hn
  exact h.reqErase

theorem Serving.formatProgram {r : Request} {ph : Phase} {n : SectorNo} {g : Nat} {d : List Byte} {m : Verify} {sn : SlotNo} (h : Serving s t sn)
    (hn : r.slot = sn := by rfl) :
    Evolves s (r.formatProgram ph n g d m t) := by
  subst hn
  exact h.reqProgram

theorem Serving.formatAnswer {r : Request} {a : Answer} {sn : SlotNo} (h : Serving s t sn)
    (hn : r.slot = sn := by rfl) : Evolves s (r.formatAnswer a t) := by
  subst hn
  unfold Request.formatAnswer
  dsimp only
  repeat' split
  all_goals first
    | with_reducible exact h.evolves
    | with_reducible exact h.formatProgram
    | with_reducible exact h.formatErase
    | with_reducible exact h.retireSector.formatRetire
    | with_reducible exact h.sectorErased.formatProgram
    | with_reducible exact h.sectorHeaded.formatNext
    | with_reducible exact h.identityFaulted.formatRetire
    | with_reducible exact h.formatNext

theorem Serving.takeAbort {r : Request} {sn : SlotNo} (h : Serving s t sn) (hn : r.slot = sn := by rfl) : Evolves s (r.takeAbort t) := by
  subst hn
  unfold Request.takeAbort
  dsimp only
  split
  · exact h.askStop.req
  · split
    · exact h.withdraw.givePlaceBack.endPlain
    · exact h.withdraw.endPlain.signal
    · exact h.withdraw.withdrawStop.endPlain
    · exact h.withdraw.endPlain

/-- The ACTIVE request is served in the state it is ACTIVE in. -/
theorem Evolves.serving {r : Request} (h : Evolves s t) (hr : t.eng.req = some r) : Serving s t r.slot :=
  ⟨h, by
    unfold State.activeSlot
    rw [hr]
    rfl⟩

theorem Evolves.abortRequest (h : Evolves s t) : Evolves s t.abortRequest := by
  unfold State.abortRequest
  split
  · exact h
  · next r hr =>
    split
    · exact h
    · split
      · exact (h.serving hr).req
      · exact (h.serving hr).takeAbort

theorem Serving.elim {n : SlotNo} {α : Type} {o : Option α} {f : α → State} (h : Serving s t n) (hf : ∀ x, Serving s (f x) n) :
    Serving s (o.elim t f) n := by
  cases o
  · exact h
  · exact hf _

theorem Serving.abortedAnswer {r : Request} {a : Answer} {sn : SlotNo} (h : Serving s t sn) (hn : r.slot = sn := by rfl) :
    Evolves s (r.abortedAnswer a t) := by
  subst hn
  have hd : ∀ d, Serving s (r.entry.elim t (fun e => r.deliver e d t)) r.slot := fun d => h.elim fun _ => h.reqDeliver
  have hf : Serving s (r.job.place.elim t (fun p => t.sectorFaulted p.sector)) r.slot := h.elim fun _ => h.sectorFaulted
  unfold Request.abortedAnswer
  split
  · exact (hd _).endPlain
  · exact (hd _).endPlain
  · exact h.sectorOpened.endPlain.signal
  · exact h.sectorOpened.endPlain.signal
  · exact h.openingFaulted.endPlain.signal
  · exact hf.endPlain
  · exact hf.endPlain
  · exact h.endPlain

theorem Serving.haltDeliver {r : Request} {a : Answer} {sn : SlotNo} (h : Serving s t sn)
    (hn : r.slot = sn := by rfl) : Serving s (r.haltDeliver a t) sn := by
  subst hn
  unfold Request.haltDeliver
  split
  · exact h.reqDeliver
  · exact h.reqDeliver
  · exact h.reqDeliver
  · exact h

theorem Serving.haltedAnswer {r : Request} {a : Answer} {sn : SlotNo} (h : Serving s t sn)
    (hn : r.slot = sn := by rfl) : Evolves s (r.haltedAnswer a t) := by
  subst hn
  unfold Request.haltedAnswer
  dsimp only
  repeat' split
  all_goals first
    | with_reducible exact h.haltDeliver.endPlain
    | with_reducible exact h.haltDeliver.publish
    | with_reducible exact h.haltDeliver.removed

theorem Serving.haltNow {r : Request} {sn : SlotNo} (h : Serving s t sn) (hn : r.slot = sn := by rfl) : Evolves s (r.haltNow t) := by
  subst hn
  unfold Request.haltNow
  split
  · exact h.publish
  · exact h.publish
  · exact h.endPlain

theorem Evolves.haltRequest (h : Evolves s t) : Evolves s t.haltRequest := by
  unfold State.haltRequest
  split
  · exact h
  · next r hr =>
    split
    · exact h
    · exact (h.serving hr).haltNow

theorem Evolves.requestAnswer {a : Answer} (h : Evolves s t) : Evolves s (t.requestAnswer a) := by
  unfold State.requestAnswer
  split
  · exact h
  · next r hr =>
    have k := h.serving hr
    repeat' split
    all_goals first
      | with_reducible exact h
      | with_reducible exact k.haltedAnswer
      | with_reducible exact k.abortedAnswer
      | with_reducible exact k.readDone
      | with_reducible exact k.readErasing
      | with_reducible exact k.openingAnswer
      | with_reducible exact k.payloadStep
      | with_reducible exact k.recordFaulted
      | with_reducible exact k.commitStep
      | with_reducible exact k.commitDone
      | with_reducible exact k.retireOldAnswer
      | with_reducible exact k.retireNewAnswer
      | with_reducible exact k.retireAnswer
      | with_reducible exact k.formatAnswer

theorem Evolves.requestUnmarked (h : Evolves s t) : Evolves s t.requestUnmarked := by
  unfold State.requestUnmarked
  split
  · exact h
  · next r hr =>
    have k := (h.serving hr).dropWaiter
    dsimp only
    repeat' split
    · exact k.endPlain
    · exact (k.setReq (q := { r with phase := .taken }) rfl).evolves
    · exact h

theorem Evolves.requestBlank (h : Evolves s t) : Evolves s t.requestBlank := by
  unfold State.requestBlank
  split
  · exact h
  · next r hr =>
    split
    · exact (h.serving hr).placeStep
    · exact h

theorem Serving.openingRefused {r : Request} {n : SlotNo} (h : Serving s t n) (e : r.slot = n := by rfl) :
    Evolves s (r.openingRefused t) := by
  subst e
  unfold Request.openingRefused
  split
  · exact h.withdraw.endPlain.signal
  · exact h.evolves

theorem Evolves.requestReadOnly (h : Evolves s t) : Evolves s t.requestReadOnly := by
  unfold State.requestReadOnly
  split
  · exact h
  · next r hr =>
    split
    · exact (h.serving hr).endPlain
    · exact (h.serving hr).openingRefused
    · exact h

theorem Evolves.requestRoom (h : Evolves s t) : Evolves s t.requestRoom := by
  unfold State.requestRoom
  split
  · exact h
  · next r hr =>
    split
    · exact (h.serving hr).placeStep
    · exact h

theorem Evolves.requestCycleEnded {how : CycleEnd} (h : Evolves s t) : Evolves s (t.requestCycleEnded how) := by
  unfold State.requestCycleEnded
  split
  · exact h
  · next r hr =>
    have k := h.serving hr
    repeat' split
    all_goals first | with_reducible exact h | with_reducible exact k.endPlain | with_reducible exact k.formatMark

end Sys2Proof.Machine
end

