-- ==== Sys2Proof/Laws/Settle.lean ====
section
/-! SUPPORT. The reclaim engine, the mount logic and the settling of the agenda evolve the state they are given (`Evolves`). -/

namespace Sys2Proof.Machine

set_option Elab.async false

variable {s t : State}

/-! ### The reclaim engine -/

theorem Evolves.startTest (h : Evolves s t) : Evolves s t.startTest := by
  unfold State.startTest
  split
  · exact h.rcl
  · exact h

theorem Evolves.endCycle {how : CycleEnd} (h : Evolves s t) : Evolves s (t.endCycle how) := by
  unfold State.endCycle
  exact Evolves.signal (Evolves.raise h.rcl)

theorem Evolves.stopFull {n : SectorNo} (h : Evolves s t) : Evolves s (t.stopFull n) := h.backToFull.endCycle
theorem Evolves.stopPending {n : SectorNo} (h : Evolves s t) : Evolves s (t.stopPending n) := h.sectorOut.endCycle
theorem Evolves.retireRun {n : SectorNo} {o : CycleEnd} (h : Evolves s t) : Evolves s (t.retireRun n o) := h.setAct.claimRead
theorem Evolves.endRetired {o : CycleEnd} (h : Evolves s t) : Evolves s (t.endRetired o) := h.endCycle
theorem Evolves.beginRetire {n : SectorNo} {o : CycleEnd} (h : Evolves s t) : Evolves s (t.beginRetire n o) :=
  h.retireSector.retireRun
theorem Evolves.beginErase {n : SectorNo} (h : Evolves s t) : Evolves s (t.beginErase n) := by
  unfold State.beginErase
  exact Evolves.claimRead h.rcl

theorem Evolves.takeForErase {n : SectorNo} (h : Evolves s t) : Evolves s (t.takeForErase n) := by
  unfold State.takeForErase
  split
  · exact h.beginRetire
  · exact h.sectorOut.beginErase

theorem Evolves.reclaimErase {n : SectorNo} (h : Evolves s t) : Evolves s (t.reclaimErase n) := h.setAct.claimErase

theorem Evolves.reclaimErased {n : SectorNo} (h : Evolves s t) : Evolves s (t.reclaimErased n) := by
  unfold State.reclaimErased
  dsimp only
  split
  · exact h.sectorErased.stopPending
  · exact Evolves.claimProgram h.sectorErased.rcl

theorem Evolves.evacuated {n : SectorNo} (h : Evolves s t) : Evolves s (t.evacuated n) := by
  unfold State.evacuated
  split
  · exact h.takeForErase
  · exact h.stopPending

theorem Evolves.nextRecord {n : SectorNo} (h : Evolves s t) : Evolves s (t.nextRecord n) := by
  unfold State.nextRecord
  split
  · exact h.evacuated
  · split
    · exact h.setAct.claimRead
    · exact h.stopFull

theorem Evolves.advance {n : SectorNo} {fp : Nat} (h : Evolves s t) : Evolves s (t.advance n fp) := by
  unfold State.advance
  exact Evolves.nextRecord h.rcl

theorem Evolves.markStep {n : SectorNo} {g : List Byte} (h : Evolves s t) : Evolves s (t.markStep n g) := by
  unfold State.markStep
  dsimp only
  split
  · exact h.rcl
  · exact h.advance
  · next x e heq =>
    refine Evolves.claimRead ?_
    have hx : t.idx.Sound → x.Sound := fun hs => by
      have := KeyIndex.markMoving_sound hs (readDescriptor g).key { sector := n, offset := t.rcl.pos }
      rw [heq] at this
      exact this
    exact (h.idx hx).rcl

theorem Evolves.descriptorRead {n : SectorNo} {g : List Byte} (h : Evolves s t) : Evolves s (t.descriptorRead n g) := by
  unfold State.descriptorRead
  split
  · exact h.markStep
  · exact h.evacuated

theorem Evolves.clearMove {k : Nat} (h : Evolves s t) : Evolves s (t.clearMove k) := by
  unfold State.clearMove
  have hi := h.idx (x := t.idx.clearMoving k) fun hs => KeyIndex.clearMoving_sound hs k
  dsimp only
  split
  · exact hi.signal
  · exact hi

theorem Evolves.dropStep {n : SectorNo} {st : ReclaimStep} {how : CycleEnd} (h : Evolves s t) : Evolves s (t.dropStep n st how) :=
  h.clearMove.backToFull.endCycle

theorem Evolves.abandon {n : SectorNo} {st : ReclaimStep} {d : Bool} (h : Evolves s t) : Evolves s (t.abandon n st d) :=
  h.exclude.dropStep

theorem Evolves.stepDone {n : SectorNo} {st : ReclaimStep} (h : Evolves s t) : Evolves s (t.stepDone n st) := h.clearMove.advance

theorem Evolves.placeCopy {m : SectorNo} {st : ReclaimStep} (h : Evolves s t) : Evolves s (t.placeCopy m st) := by
  unfold State.placeCopy
  exact Evolves.claimProgram h.placeRecord.rcl

theorem Evolves.openMove {n : SectorNo} {st : ReclaimStep} (h : Evolves s t) : Evolves s (t.openMove n st) := by
  unfold State.openMove
  dsimp only
  have hr := h.rcl (x := { t.rcl with step := some { st with copy := none } })
  split
  · exact hr.dropStep
  · split
    · exact hr.setAct
    · split
      · exact hr.takeSeq.setAct.claimProgram
      · exact hr.declareReadOnly.dropStep

theorem Evolves.moveRoom {n : SectorNo} {st : ReclaimStep} (h : Evolves s t) : Evolves s (t.moveRoom n st) := by
  unfold State.moveRoom
  split
  · split
    · exact h.placeCopy
    · exact h.closeSector.openMove
  · exact h.openMove

theorem Evolves.recordRead {n : SectorNo} {st : ReclaimStep} {d : List Byte} (h : Evolves s t) : Evolves s (t.recordRead n st d) := by
  unfold State.recordRead
  split
  · exact Evolves.moveRoom h.rcl
  · exact h.abandon

theorem Evolves.moveOpened {m : SectorNo} {q : Nat} {a : Answer} (h : Evolves s t) : Evolves s (t.moveOpened m q a) := by
  unfold State.moveOpened
  split
  · exact h.sectorOpened.signal
  · exact h.sectorOpened.signal
  · exact h.openingFaulted.signal
  · exact h

theorem Evolves.copyCommit {p : Place} (h : Evolves s t) : Evolves s (t.copyCommit p) := h.setAct.claimProgram

theorem Evolves.copyPayload {p : Place} (h : Evolves s t) : Evolves s (t.copyPayload p) := by
  unfold State.copyPayload
  split
  · exact h.copyCommit
  · exact h.setAct.claimProgram

theorem Evolves.retireCopy {p : Place} {f : Bool} (h : Evolves s t) : Evolves s (t.retireCopy p f) := h.setAct.claimProgram

theorem Evolves.originalRetired {n : SectorNo} {st : ReclaimStep} {p : Place} (h : Evolves s t) :
    Evolves s (t.originalRetired n st p) := by
  unfold State.originalRetired
  dsimp only
  split
  · next x heq => exact (h.recordRetired.idx fun hs => KeyIndex.relocate_sound hs heq).stepDone
  · exact h.recordRetired.retireCopy

theorem Evolves.copyCommitted {n : SectorNo} {st : ReclaimStep} {p : Place} (h : Evolves s t) :
    Evolves s (t.copyCommitted n st p) := by
  unfold State.copyCommitted
  dsimp only
  split
  · exact h.recordLive.setAct.claimProgram
  · exact h.recordLive.originalRetired

theorem Evolves.copyRetired {n : SectorNo} {st : ReclaimStep} {p : Place} {f : Bool} {a : Answer} (h : Evolves s t) :
    Evolves s (t.copyRetired n st p f a) := by
  unfold State.copyRetired
  split
  · exact h.recordRetired.abandon
  · exact h.sectorFaulted.declareReadOnly.abandon
  · exact h.recordRetired.stepDone
  · exact h.sectorFaulted.stepDone
  · exact h

theorem Evolves.takeVictim {n : SectorNo} (h : Evolves s t) : Evolves s (t.takeVictim n) := by
  unfold State.takeVictim
  exact Evolves.nextRecord h.setSector.rcl

theorem Evolves.selectRow (h : Evolves s t) : Evolves s t.selectRow := by
  unfold State.selectRow
  dsimp only
  split
  · exact h.pruneExcluded.nameSector.takeForErase
  · split
    · exact h.pruneExcluded.nameSector.takeVictim
    · exact Evolves.endCycle h.pruneExcluded.rcl

theorem Evolves.stoppedAtDescriptor {n : SectorNo} {g : List Byte} (h : Evolves s t) : Evolves s (t.stoppedAtDescriptor n g) := by
  unfold State.stoppedAtDescriptor
  split
  · exact h.descriptorRead
  · split
    · exact h.stopFull
    · exact h.stopPending

theorem Evolves.stoppedAtRecord {n : SectorNo} {st : ReclaimStep} {d : List Byte} (h : Evolves s t) :
    Evolves s (t.stoppedAtRecord n st d) := by
  unfold State.stoppedAtRecord
  split
  · exact h.dropStep
  · split
    · exact h.recordRead
    · exact h.setAct.claimRead

theorem Evolves.stoppedAtOpening {n : SectorNo} {st : ReclaimStep} (h : Evolves s t) : Evolves s (t.stoppedAtOpening n st) := by
  unfold State.stoppedAtOpening
  split
  · exact h.dropStep
  · exact h.moveRoom

theorem Evolves.cycleAnswer {n : SectorNo} {a : Answer} (h : Evolves s t) : Evolves s (t.cycleAnswer n a) := by
  unfold State.cycleAnswer
  repeat' split
  all_goals first
    | with_reducible exact h
    | with_reducible exact h.descriptorRead
    | with_reducible exact h.setAct.claimProgram
    | with_reducible exact h.reclaimErase
    | with_reducible exact h.beginRetire
    | with_reducible exact h.reclaimErased
    | with_reducible exact h.sectorHeaded.endCycle
    | with_reducible exact h.identityFaulted.retireRun
    | with_reducible exact h.endRetired
    | with_reducible exact h.stoppedAtDescriptor

theorem Evolves.copyFaulted {n : SectorNo} {st : ReclaimStep} {p : Place} (h : Evolves s t) : Evolves s (t.copyFaulted n st p) :=
  h.sectorFaulted.moveRoom

theorem Evolves.stepAnswer {n : SectorNo} {st : ReclaimStep} {a : Answer} (h : Evolves s t) : Evolves s (t.stepAnswer n st a) := by
  unfold State.stepAnswer
  repeat' split
  all_goals first
    | with_reducible exact h
    | with_reducible exact h.recordRead
    | with_reducible exact h.moveOpened.moveRoom
    | with_reducible exact h.moveOpened.stoppedAtOpening
    | with_reducible exact h.stoppedAtRecord
    | with_reducible exact h.copyPayload
    | with_reducible exact h.copyCommit
    | with_reducible exact h.copyCommitted
    | with_reducible exact h.copyFaulted
    | with_reducible exact h.originalRetired
    | with_reducible exact h.sectorFaulted.retireCopy
    | with_reducible exact h.copyRetired

theorem Evolves.reclaimAnswer {a : Answer} (h : Evolves s t) : Evolves s (t.reclaimAnswer a) := by
  unfold State.reclaimAnswer
  split
  · exact h
  · exact h.cycleAnswer
  · exact h.stepAnswer

theorem Evolves.reclaimHoldReleased (h : Evolves s t) : Evolves s t.reclaimHoldReleased := by
  unfold State.reclaimHoldReleased
  split
  · exact h.markStep
  · exact h

theorem Evolves.reclaimRoom (h : Evolves s t) : Evolves s t.reclaimRoom := by
  unfold State.reclaimRoom
  split
  · exact h.moveRoom
  · exact h

theorem Evolves.stopNow (h : Evolves s t) : Evolves s t.stopNow := by
  unfold State.stopNow
  repeat' split
  all_goals first
    | with_reducible exact h
    | with_reducible exact h.askStop.setAct
    | with_reducible exact h.withdraw.stopFull
    | with_reducible exact h.stopFull
    | with_reducible exact h.withdraw.dropStep
    | with_reducible exact h.dropStep
    | with_reducible exact h.withdraw.signal.dropStep
    | with_reducible exact h.withdraw.givePlaceBack.dropStep
    | with_reducible exact h.withdraw.stopPending

theorem Evolves.reclaimReadOnly (h : Evolves s t) : Evolves s t.reclaimReadOnly := by
  unfold State.reclaimReadOnly
  split
  · exact h
  · exact Evolves.stopNow h.rcl

/-! ### The mount logic, from a state that is MOUNTING -/

/-- What mount may set while MOUNTING: the counters, and what it notes. -/
theorem Evolves.mounting {x : Mount} {v g q : Nat} (h : Evolves s t) (hs : s.eng.store = .mounting) :
    Evolves s { t with
      mnt := x, eng := { t.eng with writeSeq := v }, space := { t.space with gen := g, seqCtr := q } } :=
  { flash := h.flash, pending := h.pending, halted := h.halted, resetLow := h.resetLow, faults := h.faults, host := h.host
    iflag := h.iflag, params := h.params, buffers := h.buffers, seats := h.seats
    haltStays := h.haltStays, haltFrom := h.haltFrom, raised := h.raised
    after := fun hne => absurd hs hne
    index := h.index, plane0 := h.plane0, plane1 := h.plane1 }

theorem Evolves.setMount {x : Mount} (h : Evolves s t) (hs : s.eng.store = .mounting) : Evolves s (t.setMount x) :=
  h.mounting (x := x) (v := t.eng.writeSeq) (g := t.space.gen) (q := t.space.seqCtr) hs

theorem Evolves.finishMount {x : StoreState} (h : Evolves s t) (hs : s.eng.store = .mounting) (h1 : x ≠ .halted)
    (h2 : x ≠ .mounting) : Evolves s (t.finishMount x) := by
  unfold State.finishMount
  exact Evolves.signal (Evolves.setStore (h.setMount hs) h1 h2)

theorem State.mountedState_ne (s : State) : s.mountedState ≠ .halted ∧ s.mountedState ≠ .mounting := by
  unfold State.mountedState
  split <;> decide

theorem Evolves.nextRepair (h : Evolves s t) (hs : s.eng.store = .mounting) : Evolves s t.nextRepair := by
  unfold State.nextRepair
  split
  · exact h.finishMount hs t.mountedState_ne.1 t.mountedState_ne.2
  · exact h.claimProgram

theorem Evolves.repairAnswer {a : Answer} (h : Evolves s t) (hs : s.eng.store = .mounting) : Evolves s (t.repairAnswer a) := by
  unfold State.repairAnswer
  split
  · exact (h.putSector.setMount hs).nextRepair hs
  · exact (h.putSector.setMount hs).nextRepair hs
  · exact h

theorem Evolves.beginRepair (h : Evolves s t) (hs : s.eng.store = .mounting) : Evolves s t.beginRepair :=
  (h.setMount hs).nextRepair hs

theorem Evolves.loadClasses (hs : s.eng.store = .mounting) : ∀ (k : Nat) {t : State}, Evolves s t → Evolves s (t.loadClasses k)
  | 0, _, h => h.beginRepair hs
  | k + 1, t, h => by
    unfold State.loadClasses
    dsimp only
    split
    · exact Evolves.loadClasses hs k h
    · exact (h.setMount hs).claimRead

theorem Evolves.classRead {d : List Byte} (h : Evolves s t) (hs : s.eng.store = .mounting) : Evolves s (t.classRead d) := by
  unfold State.classRead
  dsimp only
  split
  · exact h
  · exact Evolves.loadClasses hs _ h.classes

theorem Evolves.recordsDone (h : Evolves s t) (hs : s.eng.store = .mounting) : Evolves s t.recordsDone := by
  unfold State.recordsDone
  exact Evolves.loadClasses hs 8 (h.mounting (x := { t.mnt with phase := .classes, cls := 0 }) (v := t.mnt.verMax + 1)
    (g := t.space.gen) (q := t.space.seqCtr) hs)

theorem Evolves.walkAt {n : SectorNo} {o : Nat} (h : Evolves s t) (hs : s.eng.store = .mounting) : Evolves s (t.walkAt n o) :=
  (h.setMount hs).claimRead

theorem Evolves.nextWalk (h : Evolves s t) (hs : s.eng.store = .mounting) : Evolves s t.nextWalk := by
  unfold State.nextWalk
  split
  · exact h.putSector.walkAt hs
  · exact h.walkAt hs
  · exact h.recordsDone hs

theorem Evolves.walkDone {b : Bool} (h : Evolves s t) (hs : s.eng.store = .mounting) : Evolves s (t.walkDone b) := by
  unfold State.walkDone
  dsimp only
  split
  · exact (h.setMount hs).nextWalk hs
  · exact (h.setMount hs).nextWalk hs
  · exact h.nextWalk hs

theorem Evolves.offerRecord {e : Entry} (h : Evolves s t) (hs : s.eng.store = .mounting) : Evolves s (t.offerRecord e) := by
  unfold State.offerRecord
  dsimp only
  have ho : ∀ {f : SectorNo → Nat} {y : KeyIndex} {o : Option Place}, t.idx.offer e f = (y, o) → t.idx.Sound → y.Sound :=
    fun {f y o} heq hx => by
      have := KeyIndex.offer_sound hx e f
      rw [heq] at this
      exact this
  split
  · next heq => exact h.putSector.idx (ho heq)
  · next heq => exact (h.putSector.idx (ho heq)).setMount hs

theorem Evolves.countRecord {v : Verdict} {e : Entry} (h : Evolves s t) (hs : s.eng.store = .mounting) :
    Evolves s (t.countRecord v e) := by
  unfold State.countRecord
  dsimp only
  split
  · exact h.offerRecord hs
  · exact h
  · exact h.setMount hs
  · exact h.setMount hs

theorem Evolves.walkedRecord {d : List Byte} (h : Evolves s t) (hs : s.eng.store = .mounting) : Evolves s (t.walkedRecord d) := by
  unfold State.walkedRecord
  dsimp only
  have hm := h.setMount (x := t.mnt.trust (verdict d) (readDescriptor (d.take 8)).version) hs
  split
  · split
    · exact hm.walkDone hs
    · exact (hm.countRecord hs).walkDone hs
  · split
    · exact hm.walkAt hs
    · exact (hm.countRecord hs).walkAt hs

theorem Evolves.walkedDescriptor {g : List Byte} (h : Evolves s t) (hs : s.eng.store = .mounting) :
    Evolves s (t.walkedDescriptor g) := by
  unfold State.walkedDescriptor
  split
  · exact h.walkDone hs
  · exact h.walkDone hs
  · exact (h.setMount hs).claimRead

theorem Evolves.lowerBlanks {g : Nat} (h : Evolves s t) : Evolves s (t.lowerBlanks g) := by
  unfold State.lowerBlanks
  have : ∀ (l : List (SectorNo × Nat)) {u : State}, Evolves s u → Evolves s (l.foldl (fun t x =>
      if x.2 < g ∧ (t.sector x.1).state = .blank then t.putSector x.1 ((t.sector x.1).leaveUse .erasePending) else t) u) := by
    intro l
    induction l with
    | nil => exact fun hu => hu
    | cons x l ih =>
      intro u hu
      refine ih ?_
      dsimp only
      split
      · exact hu.putSector
      · exact hu
  exact this _ h

theorem Evolves.headersDone (h : Evolves s t) (hs : s.eng.store = .mounting) : Evolves s t.headersDone := by
  unfold State.headersDone
  dsimp only
  have hl := h.lowerBlanks (g := t.mnt.noted.foldl (fun a x => max a x.2) 0)
  split
  · refine Evolves.finishMount ?_ hs (by decide) (by decide)
    exact (hl.sectors.mounting (v := 1) (q := seqAfter t.mnt.seqMax) hs)
  · refine Evolves.nextWalk ?_ hs
    exact (hl.sectors.mounting (v := (t.lowerBlanks (t.mnt.noted.foldl (fun a x => max a x.2) 0)).eng.writeSeq)
      (q := seqAfter t.mnt.seqMax) hs)

theorem Evolves.headerAt {n : SectorNo} (h : Evolves s t) (hs : s.eng.store = .mounting) : Evolves s (t.headerAt n) :=
  (h.setMount hs).claimRead

theorem Evolves.nextHeader (h : Evolves s t) (hs : s.eng.store = .mounting) : Evolves s t.nextHeader := by
  unfold State.nextHeader
  split
  · exact h.headerAt hs
  · exact h.headersDone hs

theorem Evolves.headerRead {g : List Byte} (h : Evolves s t) (hs : s.eng.store = .mounting) : Evolves s (t.headerRead g) := by
  unfold State.headerRead
  dsimp only
  split
  · exact (h.putSector.setMount hs).nextHeader hs
  · split
    · exact (h.putSector.setMount hs).nextHeader hs
    · split
      · exact (h.putSector.setMount hs).nextHeader hs
      · exact (h.putSector.setMount hs).claimRead
      · exact (h.putSector.setMount hs).nextHeader hs

theorem Evolves.recordAreaRead {d : List Byte} (h : Evolves s t) (hs : s.eng.store = .mounting) : Evolves s (t.recordAreaRead d) := by
  unfold State.recordAreaRead
  dsimp only
  split
  · exact h.putSector.nextHeader hs
  · exact h.nextHeader hs

/-- Mount acts on answers while MOUNTING alone. -/
theorem mountAnswer_evolves (t : State) (a : Answer) : Evolves t (t.mountAnswer a) := by
  have h := Evolves.refl t
  unfold State.mountAnswer
  split
  · exact h
  · next hm =>
    have hm : t.eng.store = .mounting := by simpa using hm
    split
    · exact h.headerRead hm
    · exact h.recordAreaRead hm
    · exact h.walkedDescriptor hm
    · exact h.walkedRecord hm
    · exact h.classRead hm
    · exact h.repairAnswer hm
    · exact h

/-! ### The agenda -/

theorem Evolves.deliver {x : Signal} (h : Evolves s t) : Evolves s (t.deliver x) := by
  unfold State.deliver
  split
  · exact h.requestAnswer
  · exact h.reclaimAnswer
  · exact h.trans (mountAnswer_evolves t _)
  · exact h.requestUnmarked
  · exact h.reclaimHoldReleased
  · exact h.requestBlank
  · exact h.reclaimReadOnly.requestReadOnly
  · exact h.requestCycleEnded
  · exact h.takeHead
  · exact h.requestRoom.reclaimRoom
  · exact h.stopNow

theorem Evolves.drain : ∀ (k : Nat) {t : State}, Evolves s t → Evolves s (t.drain k)
  | 0, _, h => h
  | k + 1, t, h => by
    unfold State.drain
    split
    · exact h
    · exact Evolves.drain k (Evolves.deliver h.agenda)

/-- Whatever the blocks tell one another within a step, the state evolves. -/
theorem Evolves.settle (h : Evolves s t) : Evolves s t.settle := (Evolves.drain settleFuel h).startTest

/-- A row of the request engine evolves the state where what it starts does, for the request that is ACTIVE. -/
theorem serve_evolves (s : State) (ok : Params → Bool) (start : Request → State → State)
    (hstart : ∀ r t, Serving s t r.slot → Evolves s (start r t)) : Evolves s (s.serve ok start) := by
  have ht := (Evolves.refl s).takeHead
  unfold State.serve
  dsimp only
  split
  · next hr =>
    split
    · exact (hstart _ _ (ht.serving hr)).settle
    · exact Evolves.refl s
  · exact Evolves.refl s

/-! ### What `Evolves` gives -/

theorem Evolves.flash_eq (h : Evolves s t) : t.flash = s.flash := h.flash
theorem Evolves.pending_eq (h : Evolves s t) : t.pending = s.pending := h.pending
theorem Evolves.halted_eq (h : Evolves s t) : t.halted = s.halted := h.halted
theorem Evolves.faults_eq (h : Evolves s t) : t.faults = s.faults := h.faults
theorem Evolves.sel_eq (h : Evolves s t) : t.win.sel = s.win.sel := by
  have := congrArg Window.sel h.host
  exact this
theorem Evolves.imask_eq (h : Evolves s t) : t.win.imask = s.win.imask := by
  have := congrArg Window.imask h.host
  exact this
theorem Evolves.fault_eq (h : Evolves s t) : t.win.fault = s.win.fault := by
  have := congrArg Window.fault h.host
  exact this
theorem Evolves.lowmk_eq (h : Evolves s t) : t.win.lowmk = s.win.lowmk := by
  have := congrArg Window.lowmk h.host
  exact this
theorem Evolves.suslim_eq (h : Evolves s t) : t.win.suslim = s.win.suslim := by
  have := congrArg Window.suslim h.host
  exact this
theorem Evolves.wearsp_eq (h : Evolves s t) : t.win.wearsp = s.win.wearsp := by
  have := congrArg Window.wearsp h.host
  exact this
theorem Evolves.mode_eq (h : Evolves s t) : t.win.mode = s.win.mode := by
  have := congrArg Window.mode h.host
  exact this
theorem Evolves.busOut_eq (h : Evolves s t) : t.win.busOut = s.win.busOut := by
  have := congrArg Window.busOut h.host
  exact this
theorem Evolves.params_eq (h : Evolves s t) (n : SlotNo) : (t.slot n).params = (s.slot n).params := h.params n

theorem Evolves.resetLow_eq (h : Evolves s t) : t.resetLow = s.resetLow := h.resetLow

/-- An evolved state is sound where the first one is and RESET# is not held low. -/
theorem Evolves.sound (h : Evolves s t) (hs : s.Sound) (hl : s.resetLow = false) : t.Sound where
  flash := by
    unfold State.flashSound
    rw [h.flash_eq]
    exact hs.flash
  buffers := h.buffers hs.buffers
  index := h.index hs.index
  plane0 := h.plane0 hs.tunables.2.2.1 hs.plane0
  plane1 := h.plane1 hs.tunables.2.2.1 hs.plane1
  tunables := by
    unfold Window.TunablesSound
    rw [h.lowmk_eq, h.suslim_eq, h.wearsp_eq]
    exact hs.tunables
  halt := by
    unfold State.HaltSound
    rw [h.halted_eq]
    exact ⟨fun hh => h.haltStays (hs.halt.1 hh), fun hh => hs.halt.2 (h.haltFrom hh)⟩
  seats := h.seats hs.seats
  held := fun hh => by
    rw [h.resetLow_eq, hl] at hh
    exact nomatch hh

/-! ### RESET# held low -/

/-- While RESET# is held low no command but CHIP_RESET changes anything (R198, R207): there is no claim, no request and no cycle. -/
theorem exec_held (c : Instr) (hc : ∀ e a b, c ≠ .chipReset e a b) (f : List Host.Cell) (q : List Instr) :
    exec c (State.atReset f q) = .next (State.atReset f q) := by
  cases c with
  | chipReset e a b => exact absurd rfl (hc e a b)
  | _ => first | rfl | (cases ‹PlaneId› <;> rfl)

end Sys2Proof.Machine
end

