-- ==== Sys2Proof/Laws/Sound.lean ====
section
/-! SUPPORT. What keeps a state sound (`State.Sound`) outside the work that `Evolves` speaks of: the accesses to the window, the writing of
flash, the halt and the chip reset, one lemma for each shared operation. -/

namespace Sys2Proof.Machine

set_option Elab.async false

variable {s : State}

/-! ### The seats of the slots -/

/-- A slot that is neither QUEUED nor ACTIVE set to another such. -/
theorem Window.Seated.resting {w : Window} {a : Option SlotNo} {n : SlotNo} {x : Slot} {i : Byte} (h : w.Seated a)
    (h0 : (w.slots[n]).state ≠ .queued) (h1 : (w.slots[n]).state ≠ .active) (g0 : x.state ≠ .queued) (g1 : x.state ≠ .active)
    (gh : x.hidden = false) : ({ w with slots := w.slots.set n x, iflag := i } : Window).Seated a := by
  refine ⟨h.nodup, fun k => ?_, fun k => ?_, fun k => ?_⟩ <;> dsimp only <;> rw [slot_get_set] <;> split
  · next e => subst e; exact ⟨fun c => absurd c g0, fun c => absurd ((h.queued _).2 c) h0⟩
  · exact h.queued k
  · next e => subst e; exact ⟨fun c => absurd c g1, fun c => absurd ((h.active _).2 c) h1⟩
  · exact h.active k
  · exact fun c => by rw [gh] at c; exact nomatch c
  · exact h.hidden k

/-- An OPEN slot joins the tail of the queue (R98). -/
theorem Window.Seated.enqueue {w : Window} {a : Option SlotNo} {n : SlotNo} (h : w.Seated a) (ho : (w.slots[n]).state = .opened)
    (hh : (w.slots[n]).hidden = false) :
    ({ w with slots := w.slots.set n { w.slots[n] with state := .queued }, queue := w.queue ++ [n] } : Window).Seated a := by
  have hn : n ∉ w.queue := fun c => by
    have := (h.queued _).2 c
    rw [ho] at this
    exact nomatch this
  refine ⟨?_, fun k => ?_, fun k => ?_, fun k => ?_⟩
  · dsimp only
    rw [List.nodup_append]
    exact ⟨h.nodup, by simp, fun x hx y hy e => by simp only [List.mem_singleton] at hy; exact hn (hy ▸ e ▸ hx)⟩
  all_goals
    dsimp only
    rw [slot_get_set]
    split
  · next e => subst e; exact ⟨fun _ => by simp, fun _ => rfl⟩
  · next e =>
    rw [List.mem_append, List.mem_singleton, h.queued k]
    exact ⟨.inl, fun c => c.resolve_right (fun c => e c.symm)⟩
  · next e =>
    subst e
    refine ⟨(fun c => nomatch c), fun c => ?_⟩
    have := (h.active _).2 c
    rw [ho] at this
    exact nomatch this
  · exact h.active k
  · next e => subst e; exact fun c => absurd (hh.symm.trans c) (by decide)
  · exact h.hidden k

/-- A QUEUED slot ended. -/
theorem Window.Seated.unqueue {w : Window} {a : Option SlotNo} {n : SlotNo} {x : Slot} {i : Byte} (h : w.Seated a) (hq : n ∈ w.queue)
    (g : x.state = .done) (gh : x.hidden = false) :
    ({ w with slots := w.slots.set n x, queue := w.queue.filter (fun k => k != n), iflag := i } : Window).Seated a := by
  have h0 := (h.queued n).2 hq
  refine ⟨h.nodup.filter _, fun k => ?_, fun k => ?_, fun k => ?_⟩ <;> dsimp only <;> rw [slot_get_set] <;> split
  · next e => subst e; rw [g]; simp
  · next e => rw [h.queued k]; simp; exact fun _ => Ne.symm e
  · next e => subst e; rw [g]; exact ⟨(fun c => nomatch c), fun c => by rw [(h.active _).2 c] at h0; exact nomatch h0⟩
  · exact h.active k
  · exact fun c => by rw [gh] at c; exact nomatch c
  · exact h.hidden k

/-! ### The window unit -/

/-- The window unit set. -/
theorem State.Sound.setWin (hs : s.Sound) (hl : s.resetLow = false) {w : Window}
    (hb : ∀ n : SlotNo, bufferSound (w.slots[n]).buffer = true) (ht : w.TunablesSound) (hw : w.Seated s.activeSlot) :
    ({ s with win := w } : State).Sound :=
  ⟨hs.flash, hb, hs.index, hs.plane0, hs.plane1, ht, hs.halt, hw, fun h => nomatch hl.symm.trans h⟩

/-- The host's bytes of the window set. -/
theorem State.Sound.setHost (hs : s.Sound) (hl : s.resetLow = false) {w : Window} (h1 : w.slots = s.win.slots) (h2 : w.queue = s.win.queue)
    (ht : w.TunablesSound) : ({ s with win := w } : State).Sound :=
  hs.setWin hl (by rw [h1]; exact hs.buffers) ht
    ⟨by rw [h2]; exact hs.seats.nodup, by rw [h1, h2]; exact hs.seats.queued, by rw [h1]; exact hs.seats.active,
      by rw [h1]; exact hs.seats.hidden⟩

theorem State.Sound.windowFault (hs : s.Sound) (hl : s.resetLow = false) (f : WindowFault) : (s.windowFault f).Sound :=
  hs.setHost hl rfl rfl hs.tunables

/-- A slot, the queue and the flags set. -/
theorem State.Sound.setSlots (hs : s.Sound) (hl : s.resetLow = false) {n : SlotNo} {x : Slot} {q : List SlotNo} {i : Byte}
    (hb : bufferSound x.buffer = true)
    (hw : ({ s.win with slots := s.win.slots.set n x, queue := q, iflag := i } : Window).Seated s.activeSlot) :
    ({ s with win := { s.win with slots := s.win.slots.set n x, queue := q, iflag := i } } : State).Sound :=
  hs.setWin hl (fun k => by
    dsimp only; rw [slot_get_set]; split
    · exact hb
    · exact hs.buffers k) hs.tunables hw

/-- The selected slot set where it is neither QUEUED nor ACTIVE. -/
theorem State.Sound.setResting (hs : s.Sound) (hl : s.resetLow = false) {x : Slot} {i : Byte} (hb : bufferSound x.buffer = true)
    (h0 : s.selected.state ≠ .queued) (h1 : s.selected.state ≠ .active) (g0 : x.state ≠ .queued) (g1 : x.state ≠ .active)
    (gh : x.hidden = false) :
    ({ s with win := { s.win with slots := s.win.slots.set s.win.sel x, iflag := i } } : State).Sound :=
  hs.setSlots hl (q := s.win.queue) hb (hs.seats.resting h0 h1 g0 g1 gh)

/-- The selected slot set, its state and its hiding kept. -/
theorem State.Sound.setSelected (hs : s.Sound) (hl : s.resetLow = false) {x : Slot} (hb : bufferSound x.buffer = true)
    (h1 : x.state = s.selected.state) (h2 : x.hidden = s.selected.hidden) : (s.setSelected x).Sound :=
  hs.setSlots hl (q := s.win.queue) (i := s.win.iflag) hb (hs.seats.setSlot h1 h2)

theorem State.Sound.claimAction (hs : s.Sound) (hl : s.resetLow = false) : s.claimAction.Sound := by
  unfold State.claimAction
  split
  · next h =>
    rw [State.selectedIn_iff] at h
    exact hs.setResting hl (i := s.win.iflag) (hs.buffers s.win.sel) (by rw [h.1]; decide) (by rw [h.1]; decide)
      (by simp [Slot.claimed]) (by simp [Slot.claimed]) h.2
  · exact hs.windowFault hl _

theorem State.Sound.endSlot_opened (hs : s.Sound) (hl : s.resetLow = false) (c : ResultCode) (h : s.selected.state = .opened)
    (hh : s.selected.hidden = false) : (s.endSlot s.win.sel c).Sound :=
  hs.setResting hl (hs.buffers s.win.sel) (by rw [h]; decide) (by rw [h]; decide) (by simp [Slot.finish]) (by simp [Slot.finish]) hh

theorem State.Sound.submitAction (hs : s.Sound) (hl : s.resetLow = false) : s.submitAction.Sound := by
  unfold State.submitAction
  split
  · next h =>
    rw [State.selectedIn_iff] at h
    split
    · exact hs.endSlot_opened hl _ h.1 h.2
    · exact (Evolves.refl _).takeHead.sound (hs.setSlots hl (hs.buffers s.win.sel) (hs.seats.enqueue h.1 h.2)) hl
  · exact hs.windowFault hl _

theorem State.Sound.discardAction (hs : s.Sound) (hl : s.resetLow = false) : s.discardAction.Sound := by
  unfold State.discardAction
  split
  · next h =>
    rw [State.selectedIn_iff] at h
    exact hs.setResting hl (i := s.win.iflag) (hs.buffers s.win.sel) (by rw [h.1]; decide) (by rw [h.1]; decide) (by simp) (by simp) h.2
  · exact hs.windowFault hl _

theorem State.Sound.releaseAction (hs : s.Sound) (hl : s.resetLow = false) : s.releaseAction.Sound := by
  unfold State.releaseAction
  split
  · next h =>
    rw [State.selectedIn_iff] at h
    exact hs.setResting hl (hs.buffers s.win.sel) (by rw [h.1]; decide) (by rw [h.1]; decide) (by simp) (by simp) h.2
  · exact hs.windowFault hl _

theorem State.Sound.abortAction (hs : s.Sound) (hl : s.resetLow = false) : s.abortAction.Sound := by
  unfold State.abortAction
  split
  · next h =>
    rw [State.selectedIn_iff] at h
    exact hs.setSlots hl (hs.buffers s.win.sel) (hs.seats.unqueue ((hs.seats.queued _).1 h.1) rfl h.2)
  · split
    · exact ((Evolves.refl s).abortRequest).settle.sound hs hl
    · exact hs.windowFault hl _

theorem State.Sound.act (hs : s.Sound) (hl : s.resetLow = false) (a : HostAction) : (s.act a).Sound := by
  cases a
  · exact hs.claimAction hl
  · exact hs.submitAction hl
  · exact hs.discardAction hl
  · exact hs.abortAction hl
  · exact hs.releaseAction hl

theorem State.Sound.actionCode (hs : s.Sound) (hl : s.resetLow = false) (v : Byte) :
    (match actionOf v with | some a => s.act a | none => s.windowFault .actionCode : State).Sound := by
  split
  · exact hs.act hl _
  · exact hs.windowFault hl _

theorem State.Sound.windowReset (hs : s.Sound) (hl : s.resetLow = false) (low : BitVec 7) :
    ({ s with win := s.win.windowReset low }.abortRequest.settle).Sound := by
  refine (Evolves.refl _).abortRequest.settle.sound ?_ hl
  have e : ∀ k : SlotNo, ((s.win.windowReset low).slots[k]) = (s.win.slots[k]).windowReset := fun k => by
    simp [Window.windowReset]
  refine hs.setWin hl (fun k => ?_) hs.tunables ⟨List.nodup_nil, fun k => ?_, fun k => ?_, fun k => ?_⟩
  · rw [e]
    have := hs.buffers k
    unfold State.slot at this
    unfold Slot.windowReset; split <;> exact this
  · rw [e]
    refine ⟨fun c => ?_, fun c => nomatch c⟩
    unfold Slot.windowReset at c; split at c
    · next h => rw [show ({ s.win.slots[k] with hidden := true } : Slot).state = (s.win.slots[k]).state from rfl, h] at c; exact nomatch c
    · next h => rw [h] at c; exact nomatch c
    · exact nomatch c
  · rw [e, ← hs.seats.active k]
    unfold Slot.windowReset; split
    · simp
    · simp
    · next h _ => simp; exact h
  · rw [e]
    unfold Slot.windowReset; split
    · next h => intro _; exact h
    · next h => exact hs.seats.hidden k
    · next h _ => exact fun c => absurd (hs.seats.hidden k c) h

theorem clamp_bounds {lo hi n : Nat} (h : lo ≤ hi) : lo ≤ clamp lo hi n ∧ clamp lo hi n ≤ hi := by rw [clamp_eq h]; omega

theorem State.Sound.bdataRead (hs : s.Sound) (hl : s.resetLow = false) :
    (if s.selected.bufferOpen then
        (s.setSelected { s.selected with ptr := s.selected.ptr + 1 }).drive (s.selected.bufferByte s.selected.ptr.toNat)
      else (s.windowFault .bufferState).drive 0 : State).Sound := by
  split
  · have h := hs.setSelected hl (x := { s.selected with ptr := s.selected.ptr + 1 }) (hs.buffers s.win.sel) rfl rfl
    exact h.setHost hl rfl rfl hs.tunables
  · exact State.Sound.setHost (hs.windowFault hl _) hl rfl rfl hs.tunables

/-! ### Flash -/

/-- Flash holds its one form within the array (R19). -/
def FlashKept (m : List Host.Cell) : Prop := cellsWf Config.erasedByte m = true ∧ flashBounded m = true

theorem flashKept_iff (s : State) : s.flashSound = true ↔ FlashKept s.flash := by unfold State.flashSound FlashKept; rw [Bool.and_eq_true]

theorem FlashKept.write {m : List Host.Cell} (h : FlashKept m) (n : SectorNo) (o : Nat) (bs : List Byte)
    (hb : o + bs.length ≤ 4096) : FlashKept (flashWrite m n o bs) :=
  ⟨cellsWf_flashWrite n o bs h.1, cellWrite_bounded bs h.2 (by
    unfold flashAddr; have := n.isLt; simp only [Config.sectorSize]; omega)⟩

theorem FlashKept.load {m : List Host.Cell} (h : FlashKept m) (n : SectorNo) (left : List Host.Cell) : FlashKept (flashLoad m n left) := by
  refine ⟨cellsWf_flashLoad n left h.1, ?_⟩
  unfold flashLoad
  have h0 : flashBounded (flashErase m n) = true := by
    have := h.2
    unfold flashBounded flashErase at *
    rw [List.all_eq_true] at *
    exact fun c hc => this c (List.mem_of_mem_filter hc)
  generalize flashErase m n = f at h0
  induction left generalizing f with
  | nil => exact h0
  | cons c l ih =>
    simp only [List.foldl_cons]
    apply ih
    split
    · next hc => exact cellSet_bounded h0 (by unfold flashAddr; have := n.isLt; simp only [Config.sectorSize] at *; omega)
    · exact h0

theorem FlashKept.eraseCut {m : List Host.Cell} (h : FlashKept m) (n : SectorNo) (left : List Host.Cell) :
    FlashKept (cutErase m n left) := by
  unfold cutErase; dsimp only; split
  · exact h.load n left
  · exact h

theorem FlashKept.abandon {m : List Host.Cell} (h : FlashKept m) (p : Plane) (left : List Host.Cell) :
    FlashKept (abandonErase m p left) := by
  unfold abandonErase; split
  · exact h.eraseCut _ _
  · exact h

theorem length_faultLeaves {role : GranuleRole} {old given c : List Byte} (h0 : old.length = 8) (h1 : c.length ≤ 8) :
    (faultLeaves role old given c).length ≤ 8 := by
  unfold faultLeaves; split <;> omega

theorem length_cutOff {old given c : List Byte} (h0 : old.length = 8) : (cutOff old given c).length ≤ 8 := by
  unfold cutOff; rw [List.length_zipWith]; omega

theorem FlashKept.writeGranule {m : List Host.Cell} (h : FlashKept m) (n : SectorNo) {g : Nat} (hg : g < 512) {bs : List Byte}
    (hb : bs.length ≤ 8) : FlashKept (flashWrite m n (8 * g) bs) := h.write n _ bs (by omega)

theorem length_cutLeaves {role : GranuleRole} {old given c : List Byte} (h0 : old.length = 8) (h1 : c.length ≤ 8) :
    (cutLeaves role old given c).length ≤ 8 := by
  unfold cutLeaves; split <;> omega

theorem FlashKept.programCut {m : List Host.Cell} (h : FlashKept m) (p : Plane) (k : List Byte) : FlashKept (cutProgram m p k) := by
  unfold cutProgram
  split
  · split
    · dsimp only
      split
      · next hg => exact h.writeGranule _ hg (length_cutLeaves (length_flashRead ..) (length_cutOff (length_flashRead ..)))
      · exact h
    · exact h
  · exact h

theorem FlashKept.flashCut (hs : FlashKept s.flash) (a b : Torn) : FlashKept (s.cutFlash a b) := by
  unfold State.cutFlash cutPlane
  exact ((((hs.programCut _ _).abandon _ _).programCut _ _).abandon _ _)

/-! ### The chip reset and the halt -/

theorem Window.reset_seated : Window.reset.Seated none :=
  ⟨List.nodup_nil, by decide, by decide, by decide⟩

theorem State.atReset_sound {f : List Host.Cell} (h : FlashKept f) (q : List Instr) : (State.atReset f q).Sound where
  flash := (flashKept_iff _).2 h
  buffers := by intro n; revert n; show ∀ n : SlotNo, bufferSound (Window.reset.slots[n]).buffer = true; decide
  index := KeyIndex.reset_sound
  plane0 := trivial
  plane1 := trivial
  tunables := by show Window.reset.TunablesSound; unfold Window.TunablesSound; decide
  halt := by unfold State.HaltSound; exact ⟨nofun, nofun⟩
  seats := Window.reset_seated
  held := fun _ => rfl

/-- The slots of the queue ended, by their new content. -/
theorem endSlot_foldl : ∀ (l : List SlotNo) (u : State), ∃ slots iflag, l.foldl (fun t n => t.endSlot n .powerFail) u =
    { u with win := { u.win with slots := slots, iflag := iflag } } ∧
    ∀ k : SlotNo, slots[k] = if k ∈ l then (u.win.slots[k]).finish .powerFail ResultFields.zero ResultFlags.none else u.win.slots[k]
  | [], u => ⟨u.win.slots, u.win.iflag, rfl, fun k => by simp⟩
  | n :: l, u => by
    obtain ⟨sl, i, h1, h2⟩ := endSlot_foldl l (u.endSlot n .powerFail)
    refine ⟨sl, i, h1.trans rfl, fun k => ?_⟩
    have hg : ((u.endSlot n .powerFail).win.slots[k]) =
        if n = k then (u.slot n).finish .powerFail ResultFields.zero ResultFlags.none else u.win.slots[k] := by
      show (u.win.slots.set n _)[k] = _
      rw [slot_get_set]
    rw [h2 k, hg]
    by_cases e : n = k
    · subst e
      simp only [List.mem_cons, true_or, if_true, State.slot]
      split <;> rfl
    · have e' : ¬ k = n := fun c => e c.symm
      simp only [List.mem_cons, e, e', false_or, if_false]

/-- The halt keeps a state sound. -/
theorem State.Sound.halted (hs : s.Sound) (hl : s.resetLow = false) (l0 l1 : List Host.Cell) : (s.halt l0 l1).Sound := by
  unfold State.halt
  refine ((Evolves.refl _).haltRequest).settle.sound ?_ ?_
  · unfold State.haltQueue
    generalize hu : (({ s with halted := true }.haltPlanes l0 l1).setStore .halted).reclaimHalt = u
    have h1 : u.win.slots = s.win.slots ∧ u.win.queue = s.win.queue ∧ u.activeSlot = s.activeSlot ∧
        u.flash = abandonErase (abandonErase s.flash s.pl0 l0) s.pl1 l1 ∧ u.idx = s.idx ∧ u.pl0 = s.pl0.halt ∧
        u.pl1 = s.pl1.halt ∧ u.halted = true ∧ u.eng.store = .halted ∧ u.resetLow = s.resetLow ∧
        u.win.TunablesSound := by
      subst hu
      have ht := hs.tunables
      unfold State.setStore
      split
      · next h =>
        have : s.eng.store = .halted := by rcases h with h | h <;> exact h
        exact ⟨rfl, rfl, rfl, rfl, rfl, rfl, rfl, rfl, this, rfl, ht⟩
      · exact ⟨rfl, rfl, rfl, rfl, rfl, rfl, rfl, rfl, rfl, rfl, ht⟩
    obtain ⟨e1, e2, e3, e4, e5, e6, e7, e8, e9, e10, e11⟩ := h1
    obtain ⟨sl, i, f1, f2⟩ := endSlot_foldl u.win.queue { u with win := { u.win with queue := [] } }
    rw [f1]
    refine ⟨?_, fun k => ?_, ?_, ?_, ?_, e11, ?_, ?_, ?_⟩
    · rw [flashKept_iff]; show FlashKept u.flash; rw [e4]; exact ((((flashKept_iff s).1 hs.flash).abandon _ _).abandon _ _)
    · show bufferSound (sl[k]).buffer = true
      rw [f2]
      have : bufferSound ((u.win.slots[k])).buffer = true := by rw [e1]; exact hs.buffers k
      split
      · exact this
      · exact this
    · show u.idx.Sound; rw [e5]; exact hs.index
    · show u.pl0.Sound; rw [e6]; exact Plane.halt_sound
    · show u.pl1.Sound; rw [e7]; exact Plane.halt_sound
    · exact ⟨fun _ => e9, fun _ => e8⟩
    · show Window.Seated _ u.activeSlot
      rw [e3]
      have hw : u.win.Seated s.activeSlot :=
        ⟨by rw [e2]; exact hs.seats.nodup, by rw [e1, e2]; exact hs.seats.queued, by rw [e1]; exact hs.seats.active,
          by rw [e1]; exact hs.seats.hidden⟩
      refine ⟨List.nodup_nil, fun k => ?_, fun k => ?_, fun k => ?_⟩ <;> dsimp only <;> rw [f2] <;> dsimp only <;> split
      · simp [Slot.finish]
      · next hk => exact ⟨fun c => absurd ((hw.queued k).1 c) hk, fun c => nomatch c⟩
      · next hk => exact ⟨(fun c => nomatch c), fun c => nomatch ((hw.queued k).2 hk).symm.trans ((hw.active k).2 c)⟩
      · exact hw.active k
      · next hk => exact fun c => nomatch ((hw.queued k).2 hk).symm.trans (hw.hidden k c)
      · exact hw.hidden k
    · intro c; exact nomatch (hl.symm.trans (e10.symm.trans c))
  · unfold State.haltQueue
    generalize hu : (({ s with halted := true }.haltPlanes l0 l1).setStore .halted).reclaimHalt = u
    obtain ⟨sl, i, f1, f2⟩ := endSlot_foldl u.win.queue { u with win := { u.win with queue := [] } }
    rw [f1]
    show u.resetLow = false
    subst hu
    show (State.setStore _ _).resetLow = false
    unfold State.setStore
    split <;> exact hl

/-! ### The plane controllers -/

theorem State.Sound.setFlash (hs : s.Sound) (hl : s.resetLow = false) {f : List Host.Cell} (h : FlashKept f) :
    ({ s with flash := f } : State).Sound :=
  ⟨(flashKept_iff _).2 h, hs.buffers, hs.index, hs.plane0, hs.plane1, hs.tunables, hs.halt, hs.seats,
    fun c => nomatch hl.symm.trans c⟩

theorem State.Sound.setFaults (hs : s.Sound) (hl : s.resetLow = false) {f : FaultCounts} : ({ s with faults := f } : State).Sound :=
  ⟨hs.flash, hs.buffers, hs.index, hs.plane0, hs.plane1, hs.tunables, hs.halt, hs.seats,
    fun c => nomatch hl.symm.trans c⟩

theorem runEnded_evolves (s : State) (p : PlaneId) (w : Claimant) (a : Answer) : Evolves s (s.runEnded p w a) :=
  ((Evolves.refl s).setPlane (fun hs hp => Plane.finishRun_sound hp hs)).signal.settle
theorem eraseEnded_evolves (s : State) (p : PlaneId) (w : Claimant) (a : Answer) : Evolves s (s.eraseEnded p w a) :=
  ((Evolves.refl s).setPlane (fun hs _ => Plane.finishErase_sound hs)).signal.settle

theorem granuleVerified_evolves (s : State) (p : PlaneId) (r : Run) (k : Nat) : Evolves s (s.granuleVerified p r k) := by
  unfold State.granuleVerified
  split
  · exact runEnded_evolves ..
  · split
    · exact runEnded_evolves ..
    · split
      · exact runEnded_evolves ..
      · exact (Evolves.refl s).setPlane fun _ hp => Plane.Sound.congr hp rfl

theorem length_programmed_le {a b : List Byte} (h : a.length = 8) : (programmed a b).length ≤ 8 := by
  unfold programmed; rw [List.length_zipWith]; omega

theorem length_failedVerify {mode : Verify} {role : GranuleRole} {old given c : List Byte} (h0 : old.length = 8) (h1 : c.length ≤ 8) :
    (failedVerify mode role old given c).length ≤ 8 := by
  unfold failedVerify; split
  · exact length_faultLeaves h0 h1
  · exact h1

theorem length_timedOut {mode : Verify} {role : GranuleRole} {old given c : List Byte} (h0 : old.length = 8) :
    (timedOut mode role old given c).length ≤ 8 := by
  unfold timedOut; split
  · exact length_faultLeaves h0 (length_cutOff h0)
  · omega

theorem State.Sound.setGranule (hs : s.Sound) (hl : s.resetLow = false) {c : Claim} {d : Nat} {g : List Byte}
    (h : c.first + d < 512) (hg : g.length ≤ 8) : (s.setGranule c d g).Sound :=
  hs.setFlash hl (((flashKept_iff s).1 hs.flash).writeGranule _ h hg)

theorem State.Sound.granuleFaulted (hs : s.Sound) (hl : s.resetLow = false) (p : PlaneId) (r : Run) : (s.granuleFaulted p r).Sound :=
  (runEnded_evolves _ _ _ _).sound (hs.setFaults hl) hl

theorem State.Sound.plane (hs : s.Sound) (p : PlaneId) : (s.plane p).Sound := by cases p; exact hs.plane0; exact hs.plane1

end Sys2Proof.Machine
end

