-- ==== Sys2Proof/Tests/Slice0.lean ====
section
/-! SUPPORT. The model's own tests: ill-formed commands refused, the data sheet's worked figures, one step of each command on a small
state, and for every statement with hypotheses a concrete state and operands that meet them together. -/

-- The theorems below each wait for the kernel to have checked what stands before them; taken one after another they need one thread.
set_option Elab.async false

namespace Sys2Proof.Tests

open Sys2Proof Sys2Proof.Machine

/-! ### WellFormed -/

theorem test_wf_action_code_names_claim : (Instr.actionCode 1).wellFormed = false := by decide
theorem test_wf_action_code_names_release : (Instr.actionCode 5).wellFormed = false := by decide
theorem test_wf_action_code_zero : (Instr.actionCode 0).wellFormed = true := by decide
theorem test_wf_reset_granule_short : (Instr.chipReset .asserted ⟨[0], []⟩ ⟨List.replicate 8 0, []⟩).wellFormed = false := by decide
theorem test_wf_reset_sector_offset :
    (Instr.chipReset .asserted ⟨List.replicate 8 0, []⟩ ⟨List.replicate 8 0, [(4096, 0)]⟩).wellFormed = false := by decide
theorem test_wf_release_cuts_off : (Instr.chipReset (.released false) .none ⟨List.replicate 8 0, []⟩).wellFormed = false := by decide
theorem test_wf_halt_not_rising : (Instr.powerFailHalt [(5, 0), (5, 1)] []).wellFormed = false := by decide
theorem test_wf_halt_second_plane : (Instr.powerFailHalt [] [(0, 0xFF)]).wellFormed = false := by decide
theorem test_wf_program_flaw_long : (Instr.granuleProgramDone .p0 (some (List.replicate 9 0))).wellFormed = false := by decide
theorem test_wf_timeout_kept_short : (Instr.programTimeout .p1 []).wellFormed = false := by decide
theorem test_wf_blank_check_erased_byte : (Instr.eraseBlankCheck .p0 [(3, 0xFF)]).wellFormed = false := by decide
theorem test_wf_erase_timeout_falling : (Instr.eraseTimeout .p0 [(9, 0), (3, 0)]).wellFormed = false := by decide

/-! ### Figures of the data sheet -/

/-- The figure of R48. -/
theorem test_crc_check_value : crc16 [0x31, 0x32, 0x33, 0x34, 0x35, 0x36, 0x37, 0x38, 0x39] = 0x29B1 := by decide +kernel
/-- The identity granule of the example of section 3.7: mark 6D 1E, generation 3, erase count 213. -/
theorem test_identity_example : (identityGranule 3 213).take 7 = [0x6D, 0x1E, 0x03, 0x00, 0xD5, 0x00, 0x00] := by decide
/-- The open granule of the same example: sequence 117, role HOST. -/
theorem test_open_example : openGranule 117 0x01 = [0x75, 0x00, 0x00, 0x00, 0x01, 0xD1, 0xFF, 0xFF] := by decide
/-- A sector holds at most 168 records of length 0 (R45). -/
theorem test_footprint_empty : footprint 0 = 24 ∧ 64 + 168 * 24 = 4096 := by decide
/-- The longest record (R2, R45). -/
theorem test_footprint_longest : footprint 240 = 264 := by decide

/-! ### Small states -/

/-- READY over an erased array: sector 2 HOST_OPEN with one live record of key 0x0010, sector 3 FULL with 32 live and 32 stale bytes, every
other sector BLANK. -/
def ready : State :=
  { State.reset with
    eng := { Engine.reset with store := .ready, writeSeq := 6 }
    pl0 := Plane.reset
    mnt := { Mount.reset with phase := .none }
    idx := { KeyIndex.reset with
      entries := [{ key := 16, cls := 1, place := { sector := 2, offset := 64 }, length := 3, version := 5, moving := false }]
      counts := (Vector.replicate 9 0).set 1 1 }
    space :=
      { sectors := ((Vector.replicate 64 { SectorEntry.reset with state := .blank, known := true }).set 2
          { SectorEntry.reset with state := .hostOpen, known := true, seq := some 0, append := 96, liveCount := 1, liveBytes := 32 }).set 3
          { SectorEntry.reset with state := .full, known := true, seq := some 1, append := 4096, liveBytes := 32, staleBytes := 4000 }
        gen := 1
        seqCtr := 2 } }

/-- READY with `k` BLANK sectors and every other RETIRED. -/
def noVictimBlanks (k : Nat) : State :=
  { ready with
    space := { ready.space with
      sectors := Vector.ofFn (fun n => { SectorEntry.reset with state := if n.val < k then .blank else .retired }) } }

/-- The entry of key 0x0010. -/
def entry16 : Entry :=
  { key := 16, cls := 1, place := { sector := 2, offset := 64 }, length := 3, version := 5, moving := false }

/-- The state with slot 0, the selected one, as given. -/
def withSlot (x : Slot) (s : State) : State := s.setSlot 0 x

/-- A slot in a state, otherwise as chip reset leaves it. -/
def slotAs (st : SlotState) : Slot := { Slot.reset with state := st }

/-- The state with the request ACTIVE in slot 0. -/
def active (r : Request) (s : State) : State := (withSlot (slotAs .active) s).setReq r

/-- Parameters for key 0x0010 of class 1 with length 3. -/
def params (rq opt : Byte) : Params := { Params.zero with rq := rq, opt := opt, keyL := 0x10, cls := 1, len := 3 }

/-- The request of slot 0 at its taking in a store state. -/
def taken (p : Params) (st : StoreState) : Request := freshRequest 0 p st

/-- READY with the request of the parameters given at its taking. -/
def due (p : Params) : State := active (taken p .ready) ready

/-- A run just granted on plane 0. -/
def running (c : Claim) (s : State) : State := { s with pl0 := { s.pl0 with run := some { claim := c, done := 0, stop := false } } }

/-- An erase in hand on plane 0. -/
def erasing (e : EraseOp) (s : State) : State := { s with pl0 := { s.pl0 with erase := some e } }

/-- The next state, or the same where the command stops. -/
def after (c : Instr) (s : State) : State :=
  match exec c s with
  | .next t => t
  | _ => s

theorem due_due (p : Params) (st : StoreState) : (active (taken p st) ready).Due (taken p st) :=
  ⟨⟨rfl, rfl, rfl, rfl, rfl, by exact List.not_mem_nil⟩, rfl, by exact (by decide : StoreState.ready ≠ .halted)⟩

/-! ### One step of each command -/

theorem test_step_takes_the_front : (match step { ready with pending := [.claim, .submit] } with
    | .next t => (t.selected.state, t.pending)
    | _ => (.free, [])) = (.opened, [.submit]) := by decide +kernel
theorem test_step_idles : (match step ready with
    | .next t => t.eng.writeSeq
    | _ => 0) = 6 := by decide +kernel

theorem test_claim_opens : (after .claim ready).selected.state = .opened := by decide +kernel
theorem test_claim_of_done_faults : (after .claim (withSlot (slotAs .done) ready)).win.fault = .actionState := by decide +kernel
theorem test_submit_is_taken : (after .submit (withSlot (slotAs .opened) ready)).selected.state = .active := by decide +kernel
theorem test_submit_waits_while_mounting :
    (after .submit (withSlot (slotAs .opened) State.reset)).selected.state = .queued := by decide +kernel
theorem test_discard_frees : (after .discard (withSlot (slotAs .opened) ready)).selected.state = .free := by decide +kernel
theorem test_abort_of_queued : ((after .abort (after .submit (withSlot (slotAs .opened) State.reset))).selected.state,
    (after .abort (after .submit (withSlot (slotAs .opened) State.reset))).selected.code) = (.done, .aborted) := by decide +kernel
theorem test_abort_at_taking : (after .abort (due (params 2 0))).selected.code = .aborted := by decide +kernel
theorem test_release_clears_flag :
    (after .release { withSlot (slotAs .done) ready with win := { (withSlot (slotAs .done) ready).win with iflag := 0x03 } }).win.iflag =
      0x02 := by decide +kernel
theorem test_action_code_recorded : (after (.actionCode 0xFF) ready).win.fault.toByte = 5 := by decide +kernel
theorem test_action_code_of_an_action : (after (.actionCode 1) ready).selected.state = .opened ∧
    (after (.actionCode 5) (withSlot (slotAs .done) ready)).selected.state = .free := by decide +kernel
theorem test_window_reset_frees : (after (.windowReset 1) (withSlot (slotAs .done) ready)).windowByte 0x01 = 0x01 ∧
    (after (.windowReset 1) (withSlot (slotAs .done) ready)).selected.state = .free := by decide +kernel
theorem test_window_reset_aborts_active : (after (.windowReset 0) (due (params 2 0))).selected.state = .free := by decide +kernel
theorem test_reclaim_mode_stored : (after (.reclaimMode 1) ready).win.mode = .onRequest := by decide +kernel
theorem test_iflag_write : (after (.iflagWrite 0x21) { ready with win := { ready.win with iflag := 0x33 } }).win.iflag = 0x12 := by decide +kernel
theorem test_imask_write : (after (.imaskWrite 0xA5) ready).windowByte 0x05 = 0xA5 := by decide +kernel
theorem test_lowmk_clamps : ((after (.lowmkWrite 0) ready).win.lowmk, (after (.lowmkWrite 200) ready).win.lowmk) = (2, 16) := by decide +kernel
theorem test_suslim_clamps : ((after (.suslimWrite 0) ready).win.suslim, (after (.suslimWrite 64) ready).win.suslim) = (0, 63) := by decide +kernel
theorem test_wearsp_clamps : ((after (.wearspWrite 0) ready).win.wearsp, (after (.wearspWrite 255) ready).win.wearsp) = (1, 255) := by decide +kernel
theorem test_slotsel_range : ((after (.slotselWrite 3) ready).win.sel, (after (.slotselWrite 4) ready).win.fault) = (3, .selectRange) := by
  decide +kernel
theorem test_bdata_read_wraps :
    (after .bdataRead (withSlot { slotAs .done with ptr := 255, buffer := [(255, 7)] } ready)).win.busOut = 7 ∧
    (after .bdataRead (withSlot { slotAs .done with ptr := 255, buffer := [(255, 7)] } ready)).selected.ptr = 0 := by decide +kernel
theorem test_bdata_read_of_active : (after .bdataRead (withSlot (slotAs .active) ready)).win.fault = .bufferState := by decide +kernel
theorem test_bdata_write : (after (.bdataWrite 9) (withSlot { slotAs .opened with ptr := 255 } ready)).selected.bufferByte 255 = 9 := by decide +kernel
theorem test_bptr_write : (after (.bptrWrite 0xFF) ready).selected.ptr = 0xFF := by decide +kernel
theorem test_param_write : (after (.paramWrite .ver3 0x80) (withSlot (slotAs .opened) ready)).selected.params.version = 0x80000000 := by decide +kernel
theorem test_param_write_in_free : (after (.paramWrite .rq 1) ready).win.fault = .paramState := by decide +kernel
theorem test_read_only_byte : (after (.readOnlyByteWrite .state 0xFF) ready).windowByte 0x02 = 0x02 := by decide +kernel
theorem test_read_claims_its_run : ((after .read (due (params 1 0))).pl0.run.map (fun r => (r.claim.first, r.claim.work))) =
    some (8, .read 4) := by decide +kernel
theorem test_read_of_no_key : (after .read (due { params 1 0 with keyL := 0x11 })).selected.code = .notFound := by decide +kernel
theorem test_write_takes_a_version : (after .write (due (params 2 0))).eng.writeSeq = 7 := by decide +kernel
theorem test_write_if_absent : (after .write (due (params 2 2))).selected.code = .exists_ := by decide +kernel
theorem test_delete_holds_the_key : (after .delete (due (params 3 0))).idx.hold = some 16 := by decide +kernel
theorem test_delete_of_class_descriptor : (after .delete (due { params 3 0 with keyH := 0xFF, keyL := 7 })).selected.code = .keyReserved := by
  decide +kernel
theorem test_find_next_finds : (after .findNext (due { Params.zero with rq := 4, cls := 2 })).selected.fields.key = 16 := by decide +kernel
theorem test_find_next_ends : (after .findNext (due { Params.zero with rq := 4, cls := 1 })).selected.code = .ended := by decide +kernel
theorem test_report_length : (after .report (due { Params.zero with rq := 5 })).selected.fields.length = 40 := by decide +kernel
theorem test_reclaim_starts_a_cycle : (after .reclaim (due { Params.zero with rq := 6 })).rcl.phase = .select := by decide +kernel
theorem test_class_set_of_class_8 : (after .classSet (due { Params.zero with rq := 7, cls := 8 })).selected.code = .classInvalid := by decide +kernel
theorem test_class_set_holds_descriptor : (after .classSet (due { Params.zero with rq := 7, cls := 7 })).idx.hold = some 0xFF07 := by decide +kernel
theorem test_class_freeze_payload : (after .classFreeze (due { Params.zero with rq := 8, cls := 7 })).eng.req.map (fun r => r.job.payload) =
    some [2, 0, 0] := by decide +kernel
theorem test_format_marks : (after .format (due { Params.zero with rq := 9 })).eng.store = .formatting ∧
    (after .format (due { Params.zero with rq := 9 })).space.gen = 2 := by decide +kernel
theorem test_format_limit :
    (after .format { due { Params.zero with rq := 9 } with space := { ready.space with gen := 65535 } }).selected.code = .formatLimit := by
  decide +kernel
theorem test_bad_request : (after .badRequest (due { Params.zero with rq := 0x0A })).selected.code = .badRequest := by decide +kernel
theorem test_read_run_of_mount : (after (.readRunDone .p0 0) State.reset).mnt.scanSector = 1 := by decide +kernel
theorem test_program_done_next_granule :
    ((after (.granuleProgramDone .p0 none) (running ⟨.request, 2, 15, .program (List.replicate 16 5) .exact⟩ ready)).pl0.run.map
      (fun r => r.done)) = some 1 := by decide +kernel
theorem test_program_never_sets_a_bit : flashByte (after (.granuleProgramDone .p0 none)
    { running ⟨.request, 2, 15, .program (List.replicate 16 0xF0) .notErased⟩ ready with flash := [(8192 + 120, 0x3C)] }).flash 2 120 =
      0x30 := by decide +kernel
theorem test_program_timeout_counts :
    (after (.programTimeout .p0 (List.replicate 8 0xFF)) (running ⟨.request, 2, 15, .program (List.replicate 8 5) .exact⟩ ready)).faults.program =
      1 := by decide +kernel
theorem test_blank_check_passes :
    (after (.eraseBlankCheck .p0 []) (erasing ⟨.reclaim, 5, .running, 0, 16⟩ { ready with flash := [(20480, 0)] })).flash = [] := by decide +kernel
theorem test_erase_timeout_counts : (after (.eraseTimeout .p0 []) (erasing ⟨.reclaim, 5, .running, 0, 16⟩ ready)).faults.erase = 1 := by decide +kernel
theorem test_suspend_counts : ((after (.suspendComplete .p0) { erasing ⟨.reclaim, 5, .suspending, 3, 16⟩ ready with
    pl0 := { ready.pl0 with erase := some ⟨.reclaim, 5, .suspending, 3, 16⟩, waitReq := some ⟨.request, 2, 8, .read 4⟩ } }).pl0.erase.map
      (fun e => (e.cond, e.count))) = some (.suspended, 4) := by decide +kernel
theorem test_select_takes_the_stalest :
    (after .select { ready with rcl := { Reclaim.reset with phase := .select, act := .select } }).rcl.cycle = some (3, .evacuation) := by
  decide +kernel
/-- The edges of RESET# over READY. -/
def resetHeld : State := after (.chipReset .asserted ⟨List.replicate 8 0, []⟩ ⟨List.replicate 8 0, []⟩) ready

theorem test_chip_reset_holds : resetHeld.resetLow = true ∧ resetHeld.windowByte 0x00 = 0 ∧
    (after .claim resetHeld).selected.state = .free ∧ (after .bdataRead (after .bdataRead resetHeld)).win.busOut = 0 := by decide +kernel
theorem test_chip_reset_mounts : (after (.chipReset (.released false) .none .none) resetHeld).windowByte 0x00 = 0x64 ∧
    (after (.chipReset (.released false) .none .none) resetHeld).eng.store = .mounting := by decide +kernel
theorem test_chip_reset_under_pfi : (after (.chipReset (.released true) .none .none) resetHeld).windowByte 0x02 = 0x05 := by decide +kernel
theorem test_power_fail_ends_queue :
    (after (.powerFailHalt [] []) (after .submit (withSlot (slotAs .opened) State.reset))).selected.code = .powerFail := by decide +kernel

/-! ### States that meet the hypotheses of the statements -/

/-- Plane 0 with nothing in hand. -/
theorem idle_plane : (Plane.reset).Idle := ⟨rfl, rfl, rfl, rfl, rfl⟩

theorem witness_nothing_due_idles : ∃ s : State, s.pending = [] ∧ s.eng.req = none ∧ s.win.queue = [] := ⟨ready, rfl, rfl, rfl⟩

/-- The one hypothesis of ClaimAndDiscard, InterruptBytes and ClampedAndReadOnlyWrites: the part is not held in reset. -/
theorem witness_not_held : ready.resetLow = false := rfl

theorem witness_submit_clauses :
    (ready.resetLow = false ∧ ¬(ready.selected.state = .opened ∧ ready.selected.hidden = false)) ∧
    (∃ s : State, s.resetLow = false ∧ s.selected.state = .opened ∧ s.selected.hidden = false ∧ s.eng.store = .halted) ∧
    (∃ s : State, s.resetLow = false ∧ s.selected.state = .opened ∧ s.selected.hidden = false ∧ s.eng.store ≠ .halted ∧
      s.eng.store.takesSlots = false) ∧
    (∃ s : State, s.resetLow = false ∧ s.selected.state = .opened ∧ s.selected.hidden = false ∧ s.eng.req = none ∧
      s.eng.store.takesSlots = true ∧ s.win.queue = []) :=
  ⟨by decide, ⟨withSlot (slotAs .opened) { ready with eng := { ready.eng with store := .halted } }, rfl, rfl, rfl, rfl⟩,
    ⟨withSlot (slotAs .opened) State.reset, by decide⟩, ⟨withSlot (slotAs .opened) ready, rfl, rfl, rfl, rfl, rfl, rfl⟩⟩

theorem witness_release_clauses : let s := withSlot (slotAs .done) ready
    s.resetLow = false ∧ s.selected.state = .done ∧ s.selected.hidden = false ∧
      ready.resetLow = false ∧ ¬(ready.selected.state = .done ∧ ready.selected.hidden = false) := by decide

theorem witness_abort_of_slot_queued : ∃ s : State, s.resetLow = false ∧ s.selected.state = .queued ∧ s.selected.hidden = false ∧
    s.win.queue.Nodup ∧ s.win.sel ∈ s.win.queue ∧ s.win.queue = [2, 0, 1] :=
  ⟨withSlot (slotAs .queued) { ready with win := { ready.win with queue := [2, 0, 1] } }, by decide⟩

theorem witness_abort_of_slot_others : ∀ st ∈ [SlotState.free, .opened, .done], let s := withSlot (slotAs st) ready
    s.resetLow = false ∧ (s.selected.shown = .free ∨ s.selected.shown = .opened ∨ s.selected.shown = .done) := by decide

/-- Requests at or past their point of no return, of every kind. -/
def lateRequests : List Request :=
  [taken { Params.zero with rq := 4 } .ready, taken { Params.zero with rq := 5 } .ready] ++
    [Phase.commit, .retireOld, .retireNew].map (fun ph => { taken (params 2 0) .ready with phase := ph }) ++
    [{ taken (params 3 0) .ready with phase := .retire }] ++
    [Phase.fmtReadMark 0, .fmtMark 0, .fmtErase 63, .fmtHeader 63, .fmtReadRetire 1, .fmtRetire 1].map
      (fun ph => { taken { Params.zero with rq := 9 } .ready with phase := ph })

theorem witness_abort_too_late : ∀ r ∈ lateRequests,
    let s := active r ready
    s.resetLow = false ∧ s.selected.state = .active ∧ s.selected.hidden = false ∧ s.eng.req = some r ∧ s.agenda = [] ∧
      s.eng.store ≠ .halted ∧ r.aborting = false ∧ s.pl0.waitReq = none ∧ s.pl1.waitReq = none := by decide +kernel

theorem standing (r : Request) (h : r.slot = 0) : (active r ready).Standing r :=
  ⟨rfl, rfl, rfl, rfl, by rw [h]; rfl, by exact List.not_mem_nil⟩

/-- A request with no run in service, its claim waiting behind the mark of an erase where it has one. -/
theorem witness_abort_taken_at_once : ∀ ph ∈ [Phase.taken, .transfer, .lookup, .waitSpace, .waitMove, .placeWait, .opening 4 2, .payload,
      .cycle, .commit, .descriptor, .stopReclaim], ∀ faults ∈ [0, 1],
    let r : Request := { taken (params 2 0) .ready with
      phase := ph
      job := { key := 16, cls := 1, length := 3, payload := [], place := some { sector := 2, offset := 64 }, version := 6, faults := faults } }
    let s : State := { active r ready with pl0 := { Plane.reset with waitReq := some ⟨.request, 2, 9, .program (List.replicate 8 5) .exact⟩ } }
    s.resetLow = false ∧ s.selected.state = .active ∧ s.selected.hidden = false ∧ r.slot = s.win.sel ∧ s.eng.req = some r ∧ s.agenda = [] ∧
      s.eng.store ≠ .halted ∧ r.aborting = false ∧ r.flags.abortLate = false ∧ s.runInService .request = false ∧ r.slot ∉ s.win.queue ∧
      s.rcl.act ≠ .heldWait ∧ s.rcl.act ≠ .roomWait ∧ r.params.rq ≠ 0x04 ∧ r.params.rq ≠ 0x05 ∧ s.pl0.waitReq ≠ none ∧
      (s.sector 2).append = 64 + 32 ∧ (after .abort s).selected.code = .aborted := by decide +kernel

/-- As a request enters, in its first placement and in its retry, with a run of reclaim in service on the other plane or none. -/
theorem witness_abort_taken_in_run : ∀ ph ∈ [Phase.transfer, .opening 2 0, .descriptor, .payload], ∀ faults ∈ [0, 1],
    ∀ other ∈ [none, some (⟨⟨.reclaim, 40, 8, .read 1⟩, 0, false⟩ : Run)],
    let r := { taken (params 2 0) .ready with phase := ph, job := { WriteJob.empty with faults := faults } }
    let u : Run := { claim := ⟨.request, 2, 8, .read 4⟩, done := 0, stop := false }
    let s := { running u.claim (active r ready) with pl1 := { Plane.reset with run := other } }
    s.resetLow = false ∧ s.eng.req = some r ∧ s.agenda = [] ∧ s.selected.state = .active ∧ s.selected.hidden = false ∧
      (s.plane .p0).run = some u ∧ u.claim.who = .request ∧ (s.plane .p1).run = other ∧ (∀ v ∈ other, v.claim.who ≠ .request) ∧
      (after .abort s).pl0.run = some { u with stop := true } ∧ (after .abort s).pl1.run = other := by decide +kernel

theorem witness_action_code : ∀ v ∈ ([0, 6, 255] : List Byte), ready.resetLow = false ∧ (v = 0 ∨ 6 ≤ v.toNat) := by decide

theorem witness_window_reset_idle : ∃ s : State, s.resetLow = false ∧ s.eng.req = none ∧ s.agenda = [] ∧
    (∀ n, (s.slot n).state ≠ .active) ∧ (s.slot 0).state = .done := ⟨withSlot (slotAs .done) ready, by decide⟩

theorem witness_window_reset_hides : ∀ r ∈ lateRequests, let s := active r ready
    s.resetLow = false ∧ s.eng.req = some r ∧ s.agenda = [] ∧ (s.slot r.slot).state = .active ∧ s.eng.store ≠ .halted ∧ r.aborting = false ∧
      s.pl0.waitReq = none ∧ s.pl1.waitReq = none := by decide +kernel

/-- Each start condition met alone, LOWMK and WEARSP at their boundaries, and none. -/
theorem witness_reclaim_mode :
    let pending : State := { ready with space := { ready.space with sectors := ready.space.sectors.set 63 SectorEntry.reset } }
    let low : State := { noVictimBlanks 4 with win := { ready.win with lowmk := 4 } }
    let worn (d : Nat) : State := { ready with
      space := { ready.space with
        sectors := ready.space.sectors.set 9 { SectorEntry.reset with state := .blank, eraseCount := 512 + d } } }
    ([pending, active { taken (params 2 0) .ready with phase := .waitSpace } ready,
        active { taken { Params.zero with rq := 6 } .ready with phase := .cycle } ready, low, worn 1].map
          (fun s => (s.resetLow, s.rcl.phase, s.eng.store, (after (.reclaimMode 0) s).rcl.phase))) =
        List.replicate 5 (false, .idle, .ready, .select) ∧
      [low, worn 1].map (fun s => (after (.reclaimMode 1) s).rcl.phase) = [.idle, .idle] ∧
      (after (.reclaimMode 0) ready).rcl.phase = .idle ∧ (after (.reclaimMode 0) (worn 0)).rcl.phase = .idle := by decide +kernel

theorem witness_slot_select : ready.resetLow = false ∧ (3 : Byte).toNat = (3 : SlotNo).val ∧ 4 ≤ (4 : Byte).toNat ∧ 4 ≤ (255 : Byte).toNat := by decide

theorem witness_buffer_access :
    (∀ st ∈ [SlotState.free, .opened, .done], let s := withSlot (slotAs st) ready
      s.resetLow = false ∧ s.selected.hidden = false ∧ s.selected.state = st) ∧
    (∀ x ∈ [{ slotAs .active with hidden := true }, slotAs .queued, slotAs .active], let s := withSlot x ready
      s.resetLow = false ∧ (s.selected.hidden = true ∨ s.selected.state = .queued ∨ s.selected.state = .active)) := by decide

theorem witness_buffer_round_trip : ∃ (s : State) (bs : List Byte) (i : Fin bs.length), s.resetLow = false ∧
    s.selected.hidden = false ∧ s.selected.state = .opened ∧ bs.length ≤ 256 ∧ i.val = 255 :=
  ⟨withSlot (slotAs .opened) ready, List.replicate 256 7, ⟨255, by rw [List.length_replicate]; omega⟩, rfl, rfl, rfl,
    Nat.le_of_eq List.length_replicate, rfl⟩

theorem witness_parameter_write : let s := withSlot (slotAs .opened) ready
    s.resetLow = false ∧ s.selected.state = .opened ∧ s.selected.hidden = false ∧
      ready.resetLow = false ∧ ¬(ready.selected.state = .opened ∧ ready.selected.hidden = false) := by decide

theorem witness_bad_request : ∀ p ∈ [Params.zero, { Params.zero with rq := 0x0A }, { Params.zero with rq := 0xFF }, params 2 3],
    (active (taken p .ready) ready).Due (taken p .ready) ∧ (p.rq = 0 ∨ 0x0A ≤ p.rq.toNat ∨
      p.opt.getLsbD 0 = true ∧ p.opt.getLsbD 1 = true) := by
  intro p hp
  exact ⟨due_due p .ready, by revert p; decide⟩

/-- The three ends of a hidden request: REPORT and FIND_NEXT at their taking, and DELETE in RETIRE. -/
theorem witness_hidden_request_ends :
    (∀ rq ∈ ([4, 5] : List Byte), let r := taken { Params.zero with rq := rq } .ready
      let s := withSlot { slotAs .active with hidden := true } (active r ready)
      s.eng.req = some r ∧ s.agenda = [] ∧ s.idx.waiter = none ∧ r.slot ∉ s.win.queue ∧ (s.slot r.slot).hidden = true ∧ r.phase = .taken ∧
        s.eng.store ≠ .halted ∧ s.idx.hold = none ∧ (after (requestRow rq) s).selected.state = .free) ∧
    let r := { taken (params 3 0) .ready with phase := .retire, entry := some entry16 }
    let c : Claim := ⟨.request, 2, 10, .program [0, 0, 0, 0, 0, 0, 0, 0] .notErased⟩
    let s := running c (withSlot { slotAs .active with hidden := true } (active r { ready with idx := { ready.idx with hold := some 16 } }))
    s.eng.req = some r ∧ s.agenda = [] ∧ s.idx.waiter = none ∧ r.slot ∉ s.win.queue ∧ (s.slot r.slot).hidden = true ∧ r.aborting = false ∧
      s.eng.store = .ready ∧ s.idx.lookup entry16.key = some entry16 ∧ s.idx.hold = some entry16.key ∧ s.rcl.act ≠ .heldWait ∧
      (s.plane .p0).run = some ⟨c, 0, false⟩ ∧ ({ s.plane .p0 with run := none } : Plane) = Plane.reset ∧
      (after (.granuleProgramDone .p0 none) s).selected.state = .free := by decide +kernel

theorem witness_admission : ∀ st ∈ [StoreState.unformatted, .readOnly], ∀ rq ∈ ([0x02, 0x03, 0x06, 0x07, 0x08] : List Byte),
    (active (taken (params rq 1) st) ready).Due (taken (params rq 1) st) ∧ (taken (params rq 1) st).admitted = st ∧
      ¬((params rq 1).opt.getLsbD 0 = true ∧ (params rq 1).opt.getLsbD 1 = true) := by
  intro st _ rq _
  exact ⟨due_due _ _, rfl, by exact (by decide : ¬((1 : Byte).getLsbD 0 = true ∧ (1 : Byte).getLsbD 1 = true))⟩

/-- The three ends of a READ's taking, at the boundaries of the key ranges. -/
theorem witness_read_taken :
    (∀ p : Params, (due p).Due (taken p .ready)) ∧ { params 1 0 with keyL := 0 }.key = 0 ∧
    { params 1 0 with keyL := 0x08, keyH := 0xFF }.key = 0xFF08 ∧ { params 1 0 with keyL := 0x07, keyH := 0xFF }.key = 0xFF07 ∧
    (∀ e ∈ ready.idx.entries, e.key ≠ 0xFF07) ∧ ready.idx.lookup (params 1 0).key = some entry16 ∧
    (ready.plane (planeOf entry16.place.sector)).Idle :=
  ⟨fun p => due_due p .ready, by decide, by decide, by decide, by decide, by decide, idle_plane⟩

theorem witness_read_run : ∃ (s : State) (r : Request) (e : Entry) (u : Run), s.Standing r ∧ s.eng.store ≠ .halted ∧
    r.phase = .transfer ∧ r.entry = some e ∧ r.aborting = false ∧
    u.claim = { who := .request, sector := e.place.sector, first := e.place.offset / 8, work := .read (3 + (e.length + 7) / 8) } ∧
    u.stop = false ∧ e.length ≤ 240 ∧ e.place.offset / 8 + 3 + (e.length + 7) / 8 ≤ 512 ∧ (s.plane .p0).run = some u ∧
    ({ s.plane .p0 with run := none } : Plane).Idle := by
  let r := { taken (params 1 0) .ready with phase := .transfer, entry := some entry16 }
  exact ⟨running ⟨.request, 2, 8, .read 4⟩ (active r ready), r, entry16, ⟨⟨.request, 2, 8, .read 4⟩, 0, false⟩,
    ⟨rfl, rfl, rfl, rfl, rfl, by exact List.not_mem_nil⟩, by exact (by decide : StoreState.ready ≠ .halted), rfl, rfl, rfl, rfl, rfl,
    by decide, by decide, rfl, idle_plane⟩

/-- Each refusal of WRITE met by a WRITE whose hypotheses hold. -/
theorem witness_write_refusals : (∀ p : Params, (due p).Due (taken p .ready)) ∧
    [{ params 2 0 with keyH := 0xFF, keyL := 0x07 }, { params 2 0 with keyH := 0xFF, keyL := 0x08 }, { params 2 0 with cls := 8 },
      { params 2 0 with len := 241 }, { params 2 1 with keyL := 1 }, params 2 1, params 2 2].map
        (fun p => (after .write (due p)).selected.code) =
      [.keyReserved, .keyInvalid, .classInvalid, .lengthInvalid, .notFound, .versionMismatch, .exists_] :=
  ⟨fun p => due_due p .ready, by decide +kernel⟩

theorem witness_write_programs : ∃ (s : State) (r : Request) (n : SectorNo), s.Due r ∧ r.params.rq = 0x02 ∧ r.admitted = .ready ∧
    s.eng.store = .ready ∧ r.job.faults = 0 ∧ 1 ≤ r.params.key ∧ r.params.key ≤ 0xFEFF ∧ r.params.cls.toNat ≤ 7 ∧
    r.params.len.toNat ≤ 240 ∧ r.params.opt.getLsbD 0 = false ∧ r.params.opt.getLsbD 1 = false ∧
    (∀ c : Fin 8, s.classes[c] = ClassEntry.default) ∧ s.idx.lookup r.params.key = some entry16 ∧ entry16.moving = false ∧
    s.space.findState .hostOpen = some n ∧ (s.sector n).append + 24 + 8 * ((r.params.len.toNat + 7) / 8) ≤ 4096 ∧
    s.eng.writeSeq < 4294967295 ∧ (s.plane (planeOf n)).Idle :=
  ⟨due (params 2 0), taken (params 2 0) .ready, 2, due_due _ _, rfl, rfl, rfl, rfl, by decide +kernel, by decide +kernel, by decide +kernel,
    by decide +kernel, by decide +kernel, by decide +kernel, by decide +kernel, by decide +kernel, rfl, by decide +kernel,
    by decide +kernel, by decide +kernel, idle_plane⟩

theorem witness_delete_taken : (due (params 3 0)).Due (taken (params 3 0) .ready) ∧ (due (params 3 0)).idx.lookup 16 = some entry16 ∧
    (params 3 0).key = 16 ∧ (due (params 3 0)).classes[1].policy = .rewritable ∧ entry16.moving = false ∧
    ((due (params 3 0)).plane (planeOf entry16.place.sector)).Idle :=
  ⟨due_due _ _, by decide +kernel, by decide +kernel, by decide +kernel, rfl, idle_plane⟩

/-- A key whose record is being moved: the third clause of DeleteTaken and the second of WriteRefusals. -/
theorem witness_moving : ∃ s : State, s.Due (taken (params 3 0) .ready) ∧ s.idx.lookup 16 = some { entry16 with moving := true } ∧
    (s.classes[1]).policy = .rewritable :=
  ⟨{ due (params 3 0) with idx := { ready.idx with entries := [{ entry16 with moving := true }] } },
    ⟨⟨rfl, rfl, rfl, rfl, rfl, by exact List.not_mem_nil⟩, rfl, by exact (by decide : StoreState.ready ≠ .halted)⟩, by decide +kernel,
    by decide +kernel⟩

theorem witness_find_next : (due { Params.zero with rq := 4 }).Due (taken { Params.zero with rq := 4 } .ready) ∧
    { Params.zero with rq := 4, keyL := 0x07, keyH := 0xFF }.key = 0xFF07 ∧
    { Params.zero with rq := 4, keyL := 0x08, keyH := 0xFF }.key = 0xFF08 := ⟨due_due _ _, by decide, by decide⟩

theorem witness_report : (due { Params.zero with rq := 5 }).Due (taken { Params.zero with rq := 5 } .ready) ∧
    ¬((0 : Byte).getLsbD 0 = true ∧ (0 : Byte).getLsbD 1 = true) := ⟨due_due _ _, by decide⟩

theorem witness_reclaim : (due { Params.zero with rq := 6 }).Due (taken { Params.zero with rq := 6 } .ready) ∧
    (due { Params.zero with rq := 6 }).eng.store = .ready := ⟨due_due _ _, rfl⟩

/-- Each refusal of CLASS_SET and CLASS_FREEZE met. -/
theorem witness_class_refusals : (∀ p : Params, (due p).Due (taken p .ready)) ∧
    ([[(0, 2)], [(1, 1), (2, 4)], []].map (fun b => (after .classSet (withSlot { slotAs .active with buffer := b }
        (due { Params.zero with rq := 7 }))).selected.code) = [.policyRefused, .quotaExceeded, .ok]) ∧
    (after .classFreeze (due { Params.zero with rq := 8, cls := 8 })).selected.code = .classInvalid ∧
    (after .classFreeze { due { Params.zero with rq := 8 } with
      classes := (Vector.replicate 8 ClassEntry.default).set 0 ⟨.frozen, 0, true⟩ }).selected.code = .policyRefused :=
  ⟨fun p => due_due p .ready, by decide +kernel, by decide +kernel, by decide +kernel⟩

theorem witness_class_programs : ∀ freeze : Bool, ∃ (s : State) (r : Request) (n : SectorNo), s.Due r ∧
    r.params.rq = (if freeze then 0x08 else 0x07) ∧ r.admitted = .ready ∧ s.eng.store = .ready ∧ r.job.faults = 0 ∧
    r.params.cls.toNat = 7 ∧ (s.classes[7]).policy = .rewritable ∧ ((s.slot r.slot).bufferByte 0).toNat ≤ 1 ∧
    ((s.slot r.slot).bufferByte 1).toNat + 256 * ((s.slot r.slot).bufferByte 2).toNat = 0 ∧ s.idx.entries.length < 1024 ∧
    s.idx.lookup 0xFF07 = none ∧ s.space.findState .hostOpen = some n ∧ (s.sector n).append + 32 ≤ 4096 ∧
    s.eng.writeSeq < 4294967295 ∧ (s.plane (planeOf n)).Idle := by
  intro freeze
  refine ⟨due { Params.zero with rq := if freeze then 0x08 else 0x07, cls := 7 }, _, 2, due_due _ _, rfl, rfl, rfl, rfl, ?_⟩
  exact ⟨rfl, rfl, by cases freeze <;> decide +kernel, by cases freeze <;> decide +kernel, by cases freeze <;> decide +kernel,
    by cases freeze <;> decide +kernel, by cases freeze <;> decide +kernel, by cases freeze <;> decide +kernel,
    by cases freeze <;> decide +kernel, idle_plane⟩

theorem witness_format : (due { Params.zero with rq := 9 }).Due (taken { Params.zero with rq := 9 } .ready) ∧
    ready.space.gen ≠ 65535 ∧ ready.rcl.phase = .idle ∧ ready.eng.store ≠ .formatting ∧ (ready.sector 0).state ≠ .retired ∧
    (ready.sector 0).eraseCount < 100000 ∧ (ready.plane (planeOf 0)).Idle :=
  ⟨due_due _ _, by decide +kernel, rfl, by decide +kernel, by decide +kernel, by decide +kernel, idle_plane⟩

theorem witness_format_limit : ∃ s : State, s.Due (taken { Params.zero with rq := 9 } .ready) ∧ s.space.gen = 65535 :=
  ⟨{ due { Params.zero with rq := 9 } with space := { ready.space with gen := 65535 } },
    ⟨⟨rfl, rfl, rfl, rfl, rfl, by exact List.not_mem_nil⟩, rfl, by exact (by decide : StoreState.ready ≠ .halted)⟩, rfl⟩

/-- A request of key 0x0011 that has its place at offset 96 of sector 2. -/
def placed (ph : Phase) : Request :=
  { taken { params 2 0 with keyL := 0x11 } .ready with
    phase := ph
    job := { key := 17, cls := 1, length := 3, payload := [1, 2, 3], place := some { sector := 2, offset := 96 }, version := 6, faults := 1 } }

theorem witness_commit : ∃ (s : State) (r : Request) (u : Run) (data : List Byte), s.eng.req = some r ∧ s.agenda = [] ∧
    (s.slot r.slot).hidden = false ∧ r.slot ∉ s.win.queue ∧ s.eng.store = .ready ∧ r.phase = .commit ∧ r.aborting = false ∧
    r.entry = none ∧ r.job.place = some { sector := 2, offset := 96 } ∧ s.idx.hold = some r.job.key ∧ s.idx.waiter = none ∧
    s.rcl.act ≠ .heldWait ∧ s.idx.lookup r.job.key = none ∧ s.idx.entries.length < 1024 ∧
    u = { claim := { who := .request, sector := 2, first := 13, work := .program data .exact }, done := 0, stop := false } ∧
    data.length = 8 ∧ flashRead s.flash 2 104 8 = List.replicate 8 0xFF ∧ (s.plane .p0).run = some u ∧
    ({ s.plane .p0 with run := none } : Plane).Idle :=
  ⟨running ⟨.request, 2, 13, .program (List.replicate 8 5) .exact⟩
      (active (placed .commit) { ready with idx := { ready.idx with hold := some 17 } }),
    placed .commit, ⟨⟨.request, 2, 13, .program (List.replicate 8 5) .exact⟩, 0, false⟩, List.replicate 8 5, rfl, rfl, rfl,
    by exact List.not_mem_nil, rfl, rfl, rfl, rfl, rfl, rfl, rfl, by exact (by decide : ReclaimAct.idle ≠ .heldWait), by decide +kernel,
    by decide +kernel, rfl, rfl, by decide +kernel, rfl, idle_plane⟩

/-- A request of key 0x0010 that supersedes the record at offset 64 of sector 2 by one at offset 96. -/
def superseding (ph : Phase) : Request :=
  { taken (params 2 0) .ready with
    phase := ph, entry := some entry16
    job := { key := 16, cls := 1, length := 3, payload := [1, 2, 3], place := some { sector := 2, offset := 96 }, version := 6, faults := 0 } }

/-- The superseding request with a run of its own just granted on plane 0. -/
def supersede (ph : Phase) (c : Claim) : State := running c (active (superseding ph) { ready with idx := { ready.idx with hold := some 16 } })

theorem witness_commit_superseding : let c : Claim := ⟨.request, 2, 13, .program (List.replicate 8 5) .exact⟩
    let s := supersede .commit c
    s.eng.req = some (superseding .commit) ∧ s.agenda = [] ∧ (s.slot 0).hidden = false ∧ s.win.queue = [] ∧ s.eng.store = .ready ∧
      s.idx.hold = some 16 ∧ s.idx.waiter = none ∧ s.rcl.act = .idle ∧ (s.plane .p0).run = some ⟨c, 0, false⟩ ∧
      ({ s.plane .p0 with run := none } : Plane) = Plane.reset ∧ flashRead s.flash 2 104 8 = List.replicate 8 0xFF ∧
      (after (.granuleProgramDone .p0 none) s).eng.req.map (fun r => r.phase) = some .retireOld := by decide +kernel

theorem witness_retire_old : let c : Claim := ⟨.request, 2, 10, .program [0, 0, 0, 0, 0, 0, 0, 0] .notErased⟩
    let s := supersede .retireOld c
    let t := after (.granuleProgramDone .p0 none) s
    s.eng.req = some (superseding .retireOld) ∧ s.agenda = [] ∧ s.idx.lookup 16 = some entry16 ∧ s.idx.hold = some 16 ∧
      (s.plane .p0).run = some ⟨c, 0, false⟩ ∧ t.selected.code = .ok ∧ t.selected.flags.replaced = true ∧
      t.idx.lookup 16 = some { entry16 with place := { sector := 2, offset := 96 }, version := 6 } := by decide +kernel

theorem witness_delete_removes : ∃ (s : State) (r : Request) (u : Run), s.eng.req = some r ∧ s.agenda = [] ∧
    (s.slot r.slot).hidden = false ∧ r.slot ∉ s.win.queue ∧ s.eng.store = .ready ∧ r.phase = .retire ∧ r.aborting = false ∧
    r.entry = some entry16 ∧ s.idx.lookup 16 = some entry16 ∧ s.idx.hold = some 16 ∧ s.idx.waiter = none ∧ s.rcl.act ≠ .heldWait ∧
    u.claim = { who := .request, sector := 2, first := 10, work := .program [0, 0, 0, 0, 0, 0, 0, 0] .notErased } ∧
    (s.plane .p0).run = some u ∧ ({ s.plane .p0 with run := none } : Plane).Idle := by
  let r := { taken (params 3 0) .ready with phase := .retire, entry := some entry16 }
  exact ⟨running ⟨.request, 2, 10, .program [0, 0, 0, 0, 0, 0, 0, 0] .notErased⟩
      (active r { ready with idx := { ready.idx with hold := some 16 } }),
    r, ⟨⟨.request, 2, 10, .program [0, 0, 0, 0, 0, 0, 0, 0] .notErased⟩, 0, false⟩, rfl, rfl, rfl, by exact List.not_mem_nil, rfl, rfl,
    rfl, rfl, by decide +kernel, rfl, rfl, by exact (by decide : ReclaimAct.idle ≠ .heldWait), rfl, rfl, idle_plane⟩

theorem witness_granule_verifies : ∃ (s : State) (u : Run) (data : List Byte), (s.plane .p0).run = some u ∧ (s.plane .p0).halted = false ∧
    u.stop = false ∧ u.claim.work = .program data .exact ∧ u.claim.first + u.done = 510 ∧ 8 * (u.done + 2) ≤ data.length ∧
    ∀ i, i < 8 → flashByte s.flash 2 (4080 + i) &&& data.getD (8 * u.done + i) 0 = data.getD (8 * u.done + i) 0 :=
  ⟨running ⟨.request, 2, 510, .program (List.replicate 16 5) .exact⟩ ready, ⟨⟨.request, 2, 510, .program (List.replicate 16 5) .exact⟩, 0, false⟩,
    List.replicate 16 5, rfl, rfl, rfl, rfl, rfl, by decide, by decide +kernel⟩

theorem witness_granule_verifies_not_erased : ∃ (s : State) (u : Run) (data : List Byte), (s.plane .p0).run = some u ∧
    (s.plane .p0).halted = false ∧ u.stop = false ∧ u.claim.work = .program data .notErased ∧ u.claim.first + u.done < 512 ∧
    8 * (u.done + 2) ≤ data.length ∧ ∃ i, i < 8 ∧ flashByte s.flash 2 (16 + i) &&& data.getD (8 * u.done + i) 0 ≠ 0xFF :=
  ⟨running ⟨.request, 2, 2, .program (List.replicate 16 0) .notErased⟩ ready,
    ⟨⟨.request, 2, 2, .program (List.replicate 16 0) .notErased⟩, 0, false⟩, List.replicate 16 0, rfl, rfl, rfl, rfl, by decide, by decide,
    0, by decide, by decide +kernel⟩

/-- A time-out in which every bit took, of an identity, an open, a payload and a commit granule, and of a mark. -/
theorem witness_program_timeout :
    let commit : List Byte := [1, 2, 0xA5, 0x0F, 0x5A, 0xF0, 0xC3, 0x3C]
    let runs : List (Nat × List Byte × Verify) := [(0, identityGranule 1 0, .exact), (1, openGranule 7 0x01, .exact),
      (511, List.replicate 8 5, .exact), (9, commit, .exact), (2, List.replicate 8 0, .notErased)]
    let s (g : Nat) (data : List Byte) (mode : Verify) : State :=
      running ⟨.reclaim, 5, g, .program data mode⟩ { ready with flash := flashWrite [] 5 64 [16, 0, 1, 3, 5, 0, 0, 0] }
    let kept : List Byte := List.replicate 8 0
    (∀ r ∈ runs, r.1 < 512 ∧ r.2.1.length = 8 ∧ kept.length = 8 ∧
      flashRead (s r.1 r.2.1 r.2.2).flash 5 (8 * r.1) 8 = List.replicate 8 0xFF) ∧ commit.drop 2 = [0xA5, 0x0F, 0x5A, 0xF0, 0xC3, 0x3C] ∧
      flashRead (s 9 commit .exact).flash 5 64 8 ≠ List.replicate 8 0xFF ∧
      runs.map (fun r => flashRead (after (.programTimeout .p0 kept) (s r.1 r.2.1 r.2.2)).flash 5 (8 * r.1) 8) =
        [List.replicate 8 0xFF, List.replicate 8 0xFF, List.replicate 8 5, List.replicate 8 0xFF, List.replicate 8 0xFF] := by
  decide +kernel

/-- RETIRE_OLD that faults, and the two ends of the retire of the new record. -/
theorem witness_retire_faults : let old : Claim := ⟨.request, 2, 10, .program [0, 0, 0, 0, 0, 0, 0, 0] .notErased⟩
    let new : Claim := ⟨.request, 2, 14, .program [0, 0, 0, 0, 0, 0, 0, 0] .notErased⟩
    let s := supersede .retireOld old
    let n := supersede .retireNew new
    s.eng.req = some (superseding .retireOld) ∧ n.eng.req = some (superseding .retireNew) ∧ s.agenda = [] ∧ n.agenda = [] ∧
      (s.plane .p0).run = some ⟨old, 0, false⟩ ∧ (n.plane .p0).run = some ⟨new, 0, false⟩ ∧ n.idx.hold = some 16 ∧
      n.idx.lookup 16 = some entry16 ∧ n.rcl.phase = .idle ∧
      (after (.programTimeout .p0 (List.replicate 8 0)) s).eng.req.map (fun r => r.phase) = some .retireNew ∧
      (after (.granuleProgramDone .p0 none) n).selected.code = .writeFault ∧
      (after (.programTimeout .p0 (List.replicate 8 0)) n).selected.flags.oldKept = true := by decide +kernel

/-- A second fault in each of the three runs of a record. -/
theorem witness_second_fault : ∀ x ∈ [(Phase.descriptor, 12), (.payload, 15), (.commit, 13)],
    let c : Claim := ⟨.request, 2, x.2, .program (List.replicate 8 5) .exact⟩
    let s := running c (active (placed x.1) ready)
    let t := after (.programTimeout .p0 (List.replicate 8 0)) s
    s.eng.req = some (placed x.1) ∧ s.agenda = [] ∧ (s.slot 0).hidden = false ∧ s.win.queue = [] ∧ s.eng.store = .ready ∧
      (placed x.1).aborting = false ∧ (placed x.1).job.faults = 1 ∧ (placed x.1).job.place = some { sector := 2, offset := 96 } ∧
      s.idx.waiter = none ∧ s.rcl.act = .idle ∧ (s.sector 2).state = .hostOpen ∧ (s.plane .p0).run = some ⟨c, 0, false⟩ ∧
      ({ s.plane .p0 with run := none } : Plane) = Plane.reset ∧ t.selected.code = .writeFault ∧ (t.sector 2).state = .full ∧
      (t.sector 2).suspect = true ∧ t.idx.lookup 17 = none := by decide +kernel

/-- READY with sector 5 ERASING in a cycle of the reclaim engine, at the erase. -/
def eraseCycle (cond : EraseCond) : State :=
  { erasing ⟨.reclaim, 5, cond, 0, 16⟩ ready with
    rcl := { Reclaim.reset with phase := .erase, act := .erasing, cycle := some (5, .pending) }
    space := { ready.space with sectors := ready.space.sectors.set 5 { SectorEntry.reset with state := .erasing } } }

theorem witness_erase_enters_header : ∀ cond ∈ [EraseCond.running, .suspending],
    let s := eraseCycle cond
    let e : EraseOp := ⟨.reclaim, 5, cond, 0, 16⟩
    s.agenda = [] ∧ PlaneId.p0 = planeOf e.sector ∧ e.who = .reclaim ∧ e.cond ≠ .suspended ∧ (s.plane .p0).erase = some e ∧
      s.rcl.phase = .erase ∧ s.rcl.act = .erasing ∧ s.rcl.cycle = some (e.sector, .pending) ∧ s.rcl.step = none ∧
      s.rcl.stop = .none ∧ (s.sector e.sector).state = .erasing ∧ 7 ≤ s.space.usableCount ∧
      ({ s.plane .p0 with erase := none } : Plane) = Plane.reset := by decide +kernel

theorem witness_erase_faults : let left : List Host.Cell := [(0, 0x00), (4095, 0xFE)]
    sectorCellsWf left = true ∧ left ≠ [] ∧ ∀ c ∈ [Instr.eraseTimeout .p0 left, .eraseBlankCheck .p0 left],
      ∀ cond ∈ [EraseCond.running, .suspending], (after c (eraseCycle cond)).rcl.act = .readRetire .faulted ∧
        ((after c (eraseCycle cond)).sector 5).state = .retired ∧ (after c (eraseCycle cond)).faults.erase = 1 := by decide +kernel

theorem witness_suspension : ∀ w ∈ [some (Claim.mk .request 2 8 (.read 4)), none], ∀ cond ∈ [EraseCond.suspending, .running],
    let s := { ready with pl0 := { Plane.reset with erase := some ⟨.reclaim, 5, cond, 0, 16⟩, waitReq := w } }
    (s.plane .p0).erase = some ⟨.reclaim, 5, cond, 0, 16⟩ ∧ (s.plane .p0).run = none ∧ (s.plane .p0).waitReq = w := by decide

theorem witness_arbitration_claim : ∀ n ∈ ([5, 6] : List SectorNo), ∀ e ∈ [EraseOp.mk .reclaim 5 .running 0 16, ⟨.reclaim, 5, .running, 16, 16⟩,
      ⟨.reclaim, 5, .suspended, 1, 16⟩], let s := erasing e ready
    let c : Claim := ⟨.request, n, 8, .read 4⟩
    c.who = .request ∧ c.work ≠ .erase ∧ (s.plane (planeOf c.sector)).halted = false ∧ (s.plane (planeOf c.sector)).erase = some e ∧
      (s.plane (planeOf c.sector)).run = none := by decide

theorem witness_arbitration_finish :
    (∃ p : Plane, p.erase = none ∧ p.halted = false ∧ p.waitReq = some ⟨.request, 2, 8, .read 4⟩) ∧
    (∃ p : Plane, p.erase = none ∧ p.halted = false ∧ p.waitReq = none ∧ p.waitRec = some ⟨.reclaim, 2, 8, .read 1⟩) ∧
    (∃ p : Plane, p.erase = none ∧ p.halted = false ∧ p.waitReq = none ∧ p.waitRec = some ⟨.reclaim, 2, 0, .erase⟩) ∧
    ∃ p : Plane, p.erase = none ∧ p.halted = false ∧ p.waitReq = none ∧ p.waitRec = none :=
  ⟨⟨{ Plane.reset with waitReq := some ⟨.request, 2, 8, .read 4⟩ }, rfl, rfl, rfl⟩,
    ⟨{ Plane.reset with waitRec := some ⟨.reclaim, 2, 8, .read 1⟩ }, rfl, rfl, rfl, rfl⟩,
    ⟨{ Plane.reset with waitRec := some ⟨.reclaim, 2, 0, .erase⟩ }, rfl, rfl, rfl, rfl⟩, ⟨Plane.reset, rfl, rfl, rfl, rfl⟩⟩

/-- At SELECT in READY with sector 5 as given. -/
def selecting (e : SectorEntry) : State :=
  { ready with
    rcl := { Reclaim.reset with phase := .select, act := .select }
    space := { ready.space with sectors := ready.space.sectors.set 5 e } }

theorem witness_select_pending : ∀ c ∈ [99999, 100000], let s := selecting { SectorEntry.reset with eraseCount := c }
    s.agenda = [] ∧ s.rcl.phase = .select ∧ s.rcl.act = .select ∧ s.rcl.stop = .none ∧ s.plane (planeOf 5) = Plane.reset ∧
      (s.sector 5).state = .erasePending ∧ (∀ m, m < 5 → (s.sector m).state ≠ .erasePending) ∧ (s.sector 5).eraseCount = c ∧
      7 ≤ s.space.usableCount ∧ ((after .select s).sector 5).state = (if c = 99999 then .erasing else .retired) := by decide +kernel

theorem witness_select_victim : let s := selecting { SectorEntry.reset with state := .blank }
    s.rcl.phase = .select ∧ s.rcl.act = .select ∧ s.rcl.stop = .none ∧ (∀ m, (s.sector m).state ≠ .erasePending) ∧
      s.pruneExcluded.chooseVictim = some 3 ∧ s.plane (planeOf 3) = Plane.reset ∧ ((after .select s).sector 3).state = .victim := by
  decide +kernel

/-- At SELECT with neither an ERASE_PENDING nor a FULL sector. -/
def noVictimState : State :=
  { State.reset with
    eng := { Engine.reset with store := .ready }
    pl0 := Plane.reset
    rcl := { Reclaim.reset with phase := .select, act := .select }
    space := { Space.reset with sectors := Vector.replicate 64 { SectorEntry.reset with state := .blank } } }

/-- No FULL sector, one without stale bytes, and one with stale bytes that the exclusion list names. -/
theorem witness_select_no_victim :
    let full (stale : Nat) : State := noVictimState.putSector 3 { SectorEntry.reset with state := .full, staleBytes := stale }
    let out : State := { full 4032 with
      rcl := { noVictimState.rcl with excluded := [⟨3, 16, 64⟩] }
      idx := { KeyIndex.reset with entries := [{ entry16 with place := { sector := 3, offset := 64 } }] } }
    ∀ s ∈ [noVictimState, full 0, out], s.agenda = [] ∧ s.rcl.stop = .none ∧ (∀ n, (s.sector n).state ≠ .erasePending) ∧
      s.pruneExcluded.chooseVictim = none ∧ s.eng.req = none ∧ s.win.queue = [] ∧ (after .select s).rcl.noVictim = true ∧
      (after .select s).rcl.phase = .idle := by decide +kernel

theorem witness_select_no_victim_waiting : ∀ ph ∈ [Phase.cycle, .waitSpace],
    let r := { taken (params 2 0) .ready with phase := ph }
    (active r noVictimState).Standing r ∧ (after .select (active r noVictimState)).selected.state = .done := by
  intro ph hp
  exact ⟨⟨rfl, rfl, rfl, rfl, rfl, by exact List.not_mem_nil⟩, by revert ph; decide +kernel⟩

/-- The record of key 0x0010 with length 3 and version 5. -/
def desc16 : Descriptor := { key := 16, cls := 1, length := 3, version := 5 }

/-- READY with sector 3 the VICTIM of a cycle in EVACUATE at the position given, with a run of the reclaim engine on plane 0 and a record of
key 0x0010 whose descriptor granule stands there. -/
def evacuating (pos : Nat) (act : ReclaimAct) (c : Claim) (idx : KeyIndex) : State :=
  { running c ready with
    idx := idx
    rcl := { Reclaim.reset with phase := .evacuate, act := act, cycle := some (3, .evacuation), pos := pos }
    flash := flashWrite [] 3 pos (descriptorGranule desc16)
    space := { ready.space with
      sectors := ready.space.sectors.set 3
        { SectorEntry.reset with state := .victim, known := true, append := 4096, liveBytes := 32, staleBytes := 4000, liveCount := 1 } } }

/-- What the clauses of RelocationSteps share. -/
def evacuatingAt (s : State) (pos : Nat) (c : Claim) : Bool :=
  s.agenda == [] && s.rcl.phase == .evacuate && s.rcl.cycle == some (3, .evacuation) && s.rcl.stop == .none && s.idx.waiter == none &&
    s.pl0 == { Plane.reset with run := some ⟨c, 0, false⟩ } && c.who == .reclaim && s.rcl.pos == pos

/-- The entry of key 0x0010 at a place of the victim. -/
def index3 (pos : Nat) : KeyIndex := { ready.idx with entries := [{ entry16 with place := { sector := 3, offset := pos } }] }

theorem witness_relocation_descriptor :
    let run (pos : Nat) : Claim := ⟨.reclaim, 3, pos / 8, .read 1⟩
    let s (pos : Nat) (x : KeyIndex) : State := evacuating pos .readDesc (run pos) x
    let held := s 4064 { index3 4064 with hold := some 16 }
    let marked := s 4064 (index3 4064)
    let passed := s 4040 ready.idx
    let step (x : State) : State := after (.readRunDone .p0 0) x
    evacuatingAt held 4064 (run 4064) = true ∧ evacuatingAt marked 4064 (run 4064) = true ∧ evacuatingAt passed 4040 (run 4040) = true ∧
      flashRead held.flash 3 4064 8 = descriptorGranule desc16 ∧ flashRead passed.flash 3 4040 8 = descriptorGranule desc16 ∧
      held.idx.hold = some 16 ∧ marked.idx.hold = none ∧ marked.rcl.step = none ∧
      marked.idx.lookup 16 = some { entry16 with place := { sector := 3, offset := 4064 } } ∧ passed.idx.lookup 16 = some entry16 ∧
      (step held).rcl.act = .heldWait ∧ (step marked).rcl.act = .readRecord ∧
      ((step marked).idx.lookup 16).map (fun e => e.moving) = some true ∧ (step passed).rcl.pos = 4072 ∧
      (step passed).pl0.run.map (fun r => r.claim.first) = some 509 := by decide +kernel

theorem witness_relocation_copy :
    let st : ReclaimStep :=
      { key := 16, original := { sector := 3, offset := 64 }, copy := some { sector := 2, offset := 96 }, footprint := 32, entry := entry16 }
    let commit : Claim := ⟨.reclaim, 2, 13, .program (List.replicate 8 5) .exact⟩
    let retire : Claim := ⟨.reclaim, 3, 10, .program [0, 0, 0, 0, 0, 0, 0, 0] .notErased⟩
    let s (act : ReclaimAct) (pos : Nat) (c : Claim) : State := let x := evacuating pos act c (index3 64)
      { x with rcl := { x.rcl with step := some st, buffer := List.replicate 32 0xFF } }
    let a := s .copyCommit 64 commit
    let b := s .retireOriginal 4040 retire
    evacuatingAt a 64 commit = true ∧ evacuatingAt b 4040 retire = true ∧ a.rcl.step = some st ∧ b.rcl.step = some st ∧
      flashRead a.flash 2 104 8 = List.replicate 8 0xFF ∧ (a.rcl.buffer.drop 16).take 8 = List.replicate 8 0xFF ∧
      b.idx.lookup 16 = some { entry16 with place := st.original } ∧ (b.sector 3).state = .victim ∧
      (after (.granuleProgramDone .p0 none) a).rcl.act = .retireOriginal ∧
      (after (.granuleProgramDone .p0 none) b).idx.lookup 16 = some { entry16 with place := { sector := 2, offset := 96 } } ∧
      (after (.granuleProgramDone .p0 none) b).pl0.run.map (fun r => r.claim.first) = some 509 := by decide +kernel

/-- The clear-moving signal (R86) brings a DELETE in WAIT_MOVE back to CHECK: an abort is taken there, and the row DELETE begins RETIRE, from
where an abort is too late; a store that has left READY ends it READ_ONLY. -/
theorem test_check_repeats : let r : Request := { taken (params 3 0) .ready with phase := .waitMove }
    let s := active r { ready with idx := { index3 64 with waiter := some 16 } }
    let t := s.requestUnmarked
    let u := after .delete t
    t.engineState = .running ∧ t.idx.waiter = none ∧ (after .abort t).selected.code = .aborted ∧
      u.eng.req.map (fun q => q.phase) = some .retire ∧
      (after .abort u).eng.req.map (fun q => (q.phase, q.flags.abortLate)) = some (.retire, true) ∧
      (State.requestUnmarked { s with eng := { s.eng with store := .readOnly } }).selected.code = .readOnly := by decide +kernel

/-- A stop that meets a step while its room claim waits: under READ_ONLY it ends, and under FORMAT a step in its retry runs on (R171). -/
theorem test_stop_meets_retry : [(true, StopRequest.format), (false, .format), (true, .readOnly)].map (fun x =>
      let st : ReclaimStep := { key := 16, original := { sector := 3, offset := 64 }, copy := none, footprint := 32, entry := entry16,
                                retrying := x.1 }
      let s := evacuating 64 .roomWait ⟨.request, 2, 8, .read 4⟩ (index3 64)
      (State.stopNow { s with rcl := { s.rcl with step := some st, stop := x.2 } }).rcl.act) = [.roomWait, .idle, .idle] := by decide +kernel

/-- A stop that meets HEADER: an identity run that waits is withdrawn under READ_ONLY, its sector ERASE_PENDING with its erase count, and
stays under FORMAT; one in service stays under READ_ONLY (R12, R68, R171). -/
theorem test_stop_meets_header : [(true, StopRequest.readOnly), (true, .format), (false, .readOnly)].map (fun x =>
      let c : Claim := ⟨.reclaim, 3, 0, .program (identityGranule 1 10) .exact⟩
      let pl : Plane := if x.1 then { Plane.reset with waitRec := some c } else { Plane.reset with run := some ⟨c, 0, false⟩ }
      let e : SectorEntry := { SectorEntry.reset with state := .erasing, known := true, eraseCount := 9 }
      let r : Reclaim := { Reclaim.reset with phase := .header, act := .identity, cycle := some (3, .evacuation), stop := x.2 }
      let t := State.stopNow ({ ready with pl0 := pl, rcl := r }.putSector 3 e)
      (t.rcl.act, (t.sector 3).state, (t.sector 3).eraseCount, t.pl0.waits .reclaim, t.rcl.stop)) =
    [(.idle, .erasePending, 9, false, .none), (.identity, .erasing, 9, true, .format), (.identity, .erasing, 9, false, .readOnly)] := by
  decide +kernel

/-- A suspect sector before a worn and a stale one, the least worn before the stalest, the stalest where levelling does not apply or a write
waits, and none. -/
theorem witness_sector_choices : ready.space.chooseBlank = some 0 ∧
    { ready.space with sectors := Vector.replicate 64 SectorEntry.reset }.chooseBlank = none ∧
    let full (n : SectorNo) (wear stale : Nat) (suspect : Bool) (s : State) : State :=
      s.putSector n { SectorEntry.reset with state := .full, eraseCount := wear, staleBytes := stale, suspect := suspect }
    let worn : State := full 9 600 4032 false (full 8 0 0 false (full 7 0 0 false noVictimState))
    let waiting : State := active { taken (params 2 0) .ready with phase := .waitSpace } worn
    worn.space.spreadExceeds worn.win.wearsp = true ∧ waiting.engineState = .waitSpace ∧
      [full 40 0 0 true worn, worn, waiting, full 9 512 4032 false worn, full 9 512 0 false worn].map State.chooseVictim =
        [some 40, some 7, some 9, some 9, none] := by decide +kernel

theorem witness_balance : ∃ (e : SectorEntry) (fp : Nat), e.liveBytes + e.staleBytes + 64 = e.append ∧ e.append + fp = 4096 ∧
    fp ≤ e.staleBytes ∧ fp ≤ e.liveBytes ∧ e.isOpen = true :=
  ⟨{ SectorEntry.reset with state := .hostOpen, append := 4072, liveBytes := 2000, staleBytes := 2008 }, 24, by decide⟩

theorem witness_index_claims : ready.idx.lookup entry16.key = some entry16 ∧ ready.idx.lookup 17 = none ∧
    ready.idx.entries.length < 1024 ∧ ready.idx.hold = none ∧ (index3 64).lookup 16 ≠ some entry16 ∧
    (ready.idx.markMoving 16 { sector := 3, offset := 64 }).2 = .notCurrent := by decide +kernel

theorem witness_index_claims_moving : let x : KeyIndex := { ready.idx with entries := [{ entry16 with moving := true }], hold := some 17 }
    x.lookup 16 = some { entry16 with moving := true } ∧ x.takeHold 16 = none ∧ x.hold = some 17 ∧
    ((x.clearMoving 16).lookup 16).map (fun e => e.moving) = some false := by decide +kernel

/-- An index of one entry is sound. -/
theorem witness_successor : ready.idx.Sound := by
  refine ⟨rfl, by decide +kernel, fun k => ?_⟩
  revert k
  decide +kernel

/-- Mount with a run of its own just granted on the plane of its sector. -/
def mounting (c : Claim) (m : Mount) (flash : List Host.Cell) : State :=
  { State.reset with pl0 := Plane.reset, mnt := m, flash := flash }.setPlane (planeOf c.sector)
    { Plane.reset with run := some ⟨c, 0, false⟩ }

/-- What the clauses of MountSteps share. -/
def mountingAt (s : State) (c : Claim) : Bool :=
  s.eng.store == .mounting && s.agenda == [] && s.plane (planeOf c.sector) == { Plane.reset with run := some ⟨c, 0, false⟩ } &&
    c.who == .mount && ({ s.pl0 with run := none } : Plane) == Plane.reset && ({ s.pl1 with run := none } : Plane) == Plane.reset &&
    (s.pl0.run == none || s.pl1.run == none) && s.eng.req == none

/-- The read run of the header of a sector. -/
def headerRun (n : SectorNo) : Claim := ⟨.mount, n, 0, .read 4⟩

/-- Mount at the header of a sector. -/
def headerOf (n : SectorNo) (m : Mount) (flash : List Host.Cell) : State := mounting (headerRun n) { m with scanSector := n } flash

/-- HEADERS at the last sector of plane 0, of a retired, a damaged, an erased and a blank header. -/
theorem witness_mount_header : ∀ flash ∈ [[], [(31 * 4096 + 16, (0 : Byte))], [(31 * 4096, 1)], flashWrite [] 31 0 (identityGranule 1 0)],
    let s := headerOf 31 Mount.reset flash
    mountingAt s (headerRun 31) = true ∧ s.mnt.phase = .headers ∧ s.mnt.wholeRecord = false ∧ s.mnt.scanSector = 31 ∧
      (32 : SectorNo).val = (31 : SectorNo).val + 1 := by decide +kernel

/-- The record area of the last sector of plane 0, erased throughout and not. -/
theorem witness_mount_record_area : ∀ flash ∈ [flashWrite [] 31 0 (identityGranule 1 9), [(31 * 4096 + 4095, (0 : Byte))]],
    let c : Claim := ⟨.mount, 31, 8, .read 504⟩
    let s := mounting c { Mount.reset with scanSector := 31, wholeRecord := true } flash
    let t := after (.readRunDone .p0 0) s
    mountingAt s c = true ∧ s.mnt.phase = .headers ∧ s.mnt.wholeRecord = true ∧ s.mnt.scanSector = 31 ∧
      (t.sector 31).state = (if flashByte flash 31 4095 = 0xFF then .blank else .erasePending) ∧
      t.pl1.run.map (fun r => r.claim) = some (headerRun 32) := by decide +kernel

/-- HEADERS at sector 63: no generation noted, one with a candidate and a sector of a lower generation, and a BLANK header. -/
theorem witness_mount_last_header :
    let last := { Mount.reset with noted := [(2, 1), (7, 1), (3, 2)], candidates := [⟨2, 1, 8⟩, ⟨3, 2, 5⟩], seqMax := some 8 }
    let a := headerOf 63 Mount.reset []
    let b := headerOf 63 last []
    let c := headerOf 63 last (flashWrite [] 63 0 (identityGranule 1 0))
    let step (x : State) : State := after (.readRunDone .p1 0) x
    mountingAt a (headerRun 63) = true ∧ mountingAt b (headerRun 63) = true ∧ mountingAt c (headerRun 63) = true ∧
      (step a).eng.store = .unformatted ∧ (step b).mnt.phase = .records ∧ (step b).space.gen = 2 ∧ (step b).space.seqCtr = 9 ∧
      (step b).mnt.scanSector = 3 ∧ ((step b).sector 3).state = .full ∧
      (step c).pl1.run.map (fun r => r.claim) = some ⟨.mount, 63, 8, .read 504⟩ := by decide +kernel

/-- The record of key 0x0010 with length 3 and version 5, live. -/
def record16 : List Byte :=
  descriptorGranule desc16 ++ commitGranule (descriptorGranule desc16) [1, 2, 3] ++ List.replicate 8 0xFF ++ paddedPayload [1, 2, 3]

/-- RECORDS at the offset of the last record but one that fits, its descriptor read and its whole record read. -/
theorem witness_mount_records :
    let m := { Mount.reset with phase := .records, candidates := [⟨2, 1, 0⟩], scanSector := 2, scanOffset := 4040 }
    let c1 : Claim := ⟨.mount, 2, 505, .read 1⟩
    let c2 : Claim := ⟨.mount, 2, 505, .read 4⟩
    let flash := flashWrite [] 2 4040 record16
    let a := mounting c1 m flash
    let b := mounting c2 { m with wholeRecord := true } flash
    let t := after (.readRunDone .p0 0) b
    mountingAt a c1 = true ∧ mountingAt b c2 = true ∧ flashRead a.flash 2 4040 8 = descriptorGranule desc16 ∧
      verdict (flashRead b.flash 2 4040 32) = .live ∧ b.idx.lookup 16 = none ∧ 4040 + 32 ≤ 4072 ∧
      (after (.readRunDone .p0 0) a).pl0.run.map (fun r => r.claim) = some c2 ∧ (t.idx.lookup 16).map (fun e => e.length) = some 3 ∧
      t.mnt.verMax = 5 ∧ t.pl0.run.map (fun r => r.claim) = some ⟨.mount, 2, 509, .read 1⟩ := by decide +kernel

/-- A LIVE record of a key that has an entry: of a higher and of a lower version, and at equal versions in one sector, in sectors of different
sequence numbers, and in sectors of one number. -/
theorem witness_mount_duplicate :
    let c : Claim := ⟨.mount, 2, 505, .read 4⟩
    let m := { Mount.reset with phase := .records, candidates := [⟨2, 1, 7⟩], scanSector := 2, scanOffset := 4040, wholeRecord := true }
    let s (old : Entry) (seq : Nat) : State :=
      let x := (mounting c m (flashWrite [] 2 4040 record16)).putSector 40 { SectorEntry.reset with state := .full, seq := some seq }
      { x.putSector 2 { SectorEntry.reset with state := .full, seq := some 7 } with idx := { x.idx with entries := [old] } }
    let at_ (place : Place) (version : Nat) : Entry := { entry16 with place := place, version := version }
    let here : Place := { sector := 2, offset := 4040 }
    let cases : List (Entry × Nat × Bool) := [(at_ ⟨40, 64⟩ 4, 8, true), (at_ ⟨40, 64⟩ 6, 6, false), (at_ ⟨2, 4032⟩ 5, 0, true),
      (at_ ⟨2, 4048⟩ 5, 0, false), (at_ ⟨40, 64⟩ 5, 6, true), (at_ ⟨40, 64⟩ 5, 8, false), (at_ ⟨40, 64⟩ 5, 7, false)]
    ∀ x ∈ cases,
      let t := after (.readRunDone .p0 0) (s x.1 x.2.1)
      mountingAt (s x.1 x.2.1) c = true ∧ (s x.1 x.2.1).idx.lookup 16 = some x.1 ∧ x.1.place ≠ here ∧
        (t.idx.lookup 16).map Entry.place = some (if x.2.2 then here else x.1.place) ∧
        t.mnt.repairs.map Repair.place = [if x.2.2 then x.1.place else here] ∧ t.mnt.findings.duplicates = 1 := by decide +kernel

/-- The end of the last walk, at a chain end: with a descriptor of class 7, and with none. -/
theorem witness_mount_classes :
    let m := { Mount.reset with phase := .records, candidates := [⟨2, 1, 0⟩], scanSector := 2, scanOffset := 4088, verMax := 9 }
    let c : Claim := ⟨.mount, 2, 511, .read 1⟩
    let b := mounting c m []
    let a := { b with idx := { b.idx with entries := [⟨0xFF07, 15, ⟨40, 64⟩, 3, 5, false⟩] } }
    let t := after (.readRunDone .p0 0) a
    mountingAt a c = true ∧ mountingAt b c = true ∧ flashRead b.flash 2 4088 8 = List.replicate 8 0xFF ∧ b.win.queue = [] ∧
      b.rcl.phase = .idle ∧ b.mnt.versionWalk = [] ∧ b.mnt.repairs = [] ∧ (∀ k : Fin 8, b.idx.lookup (0xFF00 + k.val) = none) ∧
      (∀ k : Fin 8, k < 7 → a.idx.lookup (0xFF00 + k.val) = none) ∧ (a.idx.lookup 0xFF07).isSome = true ∧
      t.mnt.phase = .classes ∧ t.mnt.cls = 7 ∧ t.pl1.run.map (fun r => r.claim) = some ⟨.mount, 40, 8, .read 4⟩ ∧
      (after (.readRunDone .p0 0) b).eng.store = .ready ∧ (after (.readRunDone .p0 0) b).eng.writeSeq = 10 := by decide +kernel

/-- The descriptor record of class 3, taken as it stands and with a quota below the class's count, with class 7 still to read and with none. -/
theorem witness_mount_class_loads :
    let payload : List Byte := [1, 2, 0]
    let d : Descriptor := { key := 0xFF03, cls := 15, length := 3, version := 5 }
    let record := descriptorGranule d ++ commitGranule (descriptorGranule d) payload ++ List.replicate 8 0xFF ++ paddedPayload payload
    let e (k : Nat) : Entry := ⟨k, 15, ⟨2, 64⟩, 3, 5, false⟩
    let c : Claim := ⟨.mount, 2, 8, .read 4⟩
    let s (more : List Entry) (live : Nat) : State :=
      let x := mounting c { Mount.reset with phase := .classes, cls := 3 } (flashWrite [] 2 64 record)
      { x with idx := { x.idx with entries := e 0xFF03 :: more, counts := x.idx.counts.set 3 live } }
    let step (x : State) : State := after (.readRunDone .p0 0) x
    (∀ more ∈ [[], [e 0xFF07]], ∀ live ∈ [2, 3], mountingAt (s more live) c = true ∧ (s more live).idx.lookup 0xFF03 = some (e 0xFF03)) ∧
      (∀ k : Fin 8, 3 < k → (s [] 2).idx.lookup (0xFF00 + k.val) = none) ∧
      (∀ k : Fin 8, 3 < k → k < 7 → (s [e 0xFF07] 2).idx.lookup (0xFF00 + k.val) = none) ∧
      (step (s [] 2)).classes[3] = { policy := .writeOnce, quota := 2, present := true } ∧ (step (s [] 2)).eng.store = .ready ∧
      (step (s [e 0xFF07] 3)).classes[3] = { policy := .frozen, quota := 0, present := true } ∧
      (step (s [e 0xFF07] 3)).mnt.cls = 7 := by decide +kernel

/-- The last repair, effective and faulted. -/
theorem witness_mount_last_repair :
    let a : Repair := { place := { sector := 2, offset := 4072 }, key := 16, footprint := 24 }
    let c : Claim := ⟨.mount, 2, 511, .program [0, 0, 0, 0, 0, 0, 0, 0] .notErased⟩
    let x := mounting c { Mount.reset with phase := .repair, repairs := [a] } []
    let s := x.putSector 2 { SectorEntry.reset with state := .full, append := 4096, liveBytes := 48, liveCount := 2, staleBytes := 3984 }
    mountingAt s c = true ∧ s.mnt.repairs = [a] ∧ a.place.offset / 8 + 2 = 511 ∧ (s.sector 2).state = .full ∧ s.win.queue = [] ∧
      s.rcl.phase = .idle ∧ (after (.granuleProgramDone .p0 none) s).eng.store = .ready ∧
      ((after (.granuleProgramDone .p0 none) s).sector 2).liveBytes = 24 ∧
      (after (.programTimeout .p0 (List.replicate 8 0)) s).eng.store = .readOnly := by decide +kernel

/-- REPAIR with one more item behind. -/
theorem witness_mount_repair :
    let a : Repair := { place := { sector := 2, offset := 4072 }, key := 16, footprint := 24 }
    let b : Repair := { place := { sector := 40, offset := 64 }, key := 17, footprint := 24 }
    let c : Claim := ⟨.mount, 2, 511, .program [0, 0, 0, 0, 0, 0, 0, 0] .notErased⟩
    let s := mounting c { Mount.reset with phase := .repair, repairs := [a, b] } []
    mountingAt s c = true ∧ s.mnt.repairs = a :: b :: [] ∧ a.place.offset / 8 + 2 = 511 ∧
      (after (.granuleProgramDone .p0 none) s).pl1.run.map (fun r => r.claim.first) = some 10 ∧
      (after (.programTimeout .p0 (List.replicate 8 0)) s).mnt.repairFailed = true := by decide +kernel

theorem witness_header_granules : (1 : Nat) ≤ 65535 ∧ (16777215 : Nat) < 16777216 ∧
    (0 : Byte) ≠ (identityGranule 65535 16777215).getD 7 0 ∧ readIdentity ((identityGranule 65535 16777215).set 7 0) = .damaged := by decide

theorem witness_record_reads_back : ∃ (d : Descriptor) (payload retire : List Byte), 0xFF00 ≤ d.key ∧ d.key ≤ 0xFF07 ∧ d.cls = 15 ∧
    d.length ≤ 240 ∧ d.version = 4294967295 ∧ payload.length = d.length ∧ retire.length = 8 :=
  ⟨{ key := 0xFF07, cls := 15, length := 3, version := 4294967295 }, [2, 0, 0], List.replicate 8 0xFF, by decide⟩

/-- One wrong byte at each end of the descriptor, the CRC, the commit pattern and the payload. -/
theorem witness_record_wrong_byte : ([(0, 17), (7, 1), (8, 0), (9, 0), (10, 0xA4), (15, 0x3D), (24, 0), (26, 0)].map
    (fun (x : Nat × Byte) => let wrong := record16.set x.1 x.2; (x.2 != record16.getD x.1 0, recordPasses wrong entry16, verdict wrong))) =
      [Verdict.failingCrc, .failingCrc, .failingCrc, .failingCrc, .uncommitted, .uncommitted, .failingCrc, .failingCrc].map
        (fun v => (true, false, v)) ∧ recordPasses record16 entry16 = true := by decide +kernel

/-- With a payload run at granule 12 of sector 5, the byte at each side of that granule, and a byte of a sector that is being erased. -/
theorem witness_chip_reset : let c : Claim := ⟨.reclaim, 5, 11, .program (List.replicate 24 5) .exact⟩
    let s : State := { ready with pl0 := { Plane.reset with run := some ⟨c, 1, false⟩ } }
    (s.plane .p0).run = some ⟨c, 1, false⟩ ∧ (s.plane .p0).erase = none ∧ (s.plane .p1).erase = none ∧ (s.plane .p1).run = none ∧
      ∀ o ∈ [95, 104], ¬(8 * (11 + 1) ≤ o ∧ o < 8 * (11 + 1) + 8) := by decide +kernel

/-- An erase cut off by RESET#, with what is left given as a damaged identity, as an unchanged header, as the identity it had before a
damaged open granule, and as a valid identity of another generation, which is not left. -/
theorem witness_chip_reset_cuts_erase : let e : EraseOp := ⟨.reclaim, 5, .suspended, 1, 16⟩
    let header : List Byte := identityGranule 1 9 ++ openGranule 7 0x01 ++ List.replicate 8 0xFF ++ List.replicate 8 0
    let torn : List Byte := identityGranule 1 9 ++ List.replicate 8 0x5A ++ List.replicate 16 0xFF
    let cells (l : List Byte) : List Host.Cell := flashWrite [] 0 0 l
    let s : State := { erasing e ready with flash := flashWrite [] 5 0 (header ++ [1]) }
    let step (left : List Host.Cell) : List Byte :=
      flashRead (after (.chipReset .asserted ⟨List.replicate 8 0, left⟩ ⟨List.replicate 8 0, []⟩) s).flash 5 0 33
    (s.plane .p0).erase = some e ∧ (s.plane .p1).erase = none ∧ (s.plane .p0).run = none ∧ (s.plane .p1).run = none ∧
      planeOf e.sector = .p0 ∧ headerPending ((step [(0, 0)]).take 32) = true ∧ readIdentity ((step [(0, 0)]).take 8) = .damaged ∧
      step (cells header) = header ++ [0xFF] ∧ step (cells torn) = torn ++ [0xFF] ∧ headerPending torn = true ∧
      step (cells (identityGranule 2 9 ++ header.drop 8)) = header ++ [1] := by decide +kernel

/-- A program cut off by RESET# with every bit taken: an identity and a payload granule hold what was given, and a commit granule does not.
An identity of count 212 whose two clear bits did not take would read valid with count 213, and is not left. -/
theorem witness_chip_reset_cuts_program :
    let commit : List Byte := [1, 2, 0xA5, 0x0F, 0x5A, 0xF0, 0xC3, 0x3C]
    let none_ : List Byte := List.replicate 8 0
    let kept : List Byte := [0, 0, 0, 0, 1, 0, 0, 1]
    readIdentity (cutOff (List.replicate 8 0xFF) (identityGranule 3 212) kept) = .valid 3 213 ∧
    [(0, identityGranule 1 0, none_), (511, List.replicate 8 5, none_), (9, commit, none_), (0, identityGranule 3 212, kept)].map
      (fun (x : Nat × List Byte × List Byte) =>
        let s := running ⟨.reclaim, 5, x.1, .program x.2.1 .exact⟩ { ready with flash := flashWrite [] 5 64 [16, 0, 1, 3, 5, 0, 0, 0] }
        flashRead (after (.chipReset .asserted ⟨x.2.2, []⟩ ⟨none_, []⟩) s).flash 5 (8 * x.1) 8) =
        [identityGranule 1 0, List.replicate 8 5, List.replicate 8 0xFF, List.replicate 8 0xFF] := by decide +kernel

theorem witness_chip_reset_held : resetHeld = State.atReset [] [] ∧ ∀ edge a b, Instr.claim ≠ .chipReset edge a b :=
  ⟨by decide +kernel, fun _ _ _ => nofun⟩

/-- Requests that PFI# meets with no run in service, RETIRE_OLD waiting among them, and with slots queued behind. -/
theorem witness_power_fail : ∀ ph ∈ [Phase.taken, .waitSpace, .waitMove, .descriptor, .payload, .commit, .cycle, .retireOld],
    let r := superseding ph
    let s : State := { active r ready with
      win := { (active r ready).win with queue := [1, 2] }
      pl0 := { Plane.reset with waitReq := some ⟨.request, 2, 10, .program (List.replicate 8 0) .notErased⟩ } }
    let t := after (.powerFailHalt [] []) s
    s.halted = false ∧ s.resetLow = false ∧ s.eng.store ≠ .halted ∧ s.agenda = [] ∧ s.win.queue.Nodup ∧
      (∀ n ∈ s.win.queue, (s.slot n).hidden = false) ∧ s.eng.req = some r ∧ r.slot ∉ s.win.queue ∧ (s.slot r.slot).hidden = false ∧
      s.runInService .request = false ∧ r.entry = some entry16 ∧ s.idx.lookup r.job.key = some entry16 ∧
      (t.slot 0).code = (if ph = .retireOld then .ok else .powerFail) ∧ (t.slot 2).code = .powerFail := by decide +kernel

theorem witness_power_fail_in_run : let c : Claim := ⟨.request, 2, 13, .program (List.replicate 8 5) .exact⟩
    let s := running c (active (placed .commit) { ready with idx := { ready.idx with hold := some 17 } })
    s.runInService .request = true ∧ (after (.powerFailHalt [] []) s).eng.req = some (placed .commit) := by decide +kernel

/-- A commit run in service at the halt, as the halt leaves it. -/
theorem witness_power_fail_commit : let c : Claim := ⟨.request, 2, 13, .program (List.replicate 8 5) .exact⟩
    let s := after (.powerFailHalt [] []) (running c (active (placed .commit) { ready with idx := { ready.idx with hold := some 17 } }))
    s.eng.store = .halted ∧ (s.plane .p0).halted = true ∧ s.eng.req = some (placed .commit) ∧ s.agenda = [] ∧ (s.slot 0).hidden = false ∧
      s.win.queue = [] ∧ s.idx.hold = some 17 ∧ s.idx.waiter = none ∧ s.rcl.act = .idle ∧ s.idx.lookup 17 = none ∧
      s.idx.entries.length < 1024 ∧ flashRead s.flash 2 104 8 = List.replicate 8 0xFF ∧ (s.plane .p0).run = some ⟨c, 0, false⟩ ∧
      (after (.granuleProgramDone .p0 none) s).selected.code = .ok ∧
      (after (.programTimeout .p0 (List.replicate 8 0)) s).selected.code = .powerFail := by decide +kernel

theorem witness_power_fail_again : (after (.powerFailHalt [] []) ready).halted = true := by decide +kernel

/-- The state after reset with a command waiting is sound and steps on. -/
theorem witness_step_keeps_sound : ∃ s t : State, s.Sound ∧ step s = .next t ∧ t.selected.state = .opened := by
  refine ⟨{ State.reset with pending := [.claim] }, _, ⟨by decide, ?_, KeyIndex.reset_sound, trivial, trivial, ?_, ?_, ?_, ?_⟩, rfl, by decide⟩
  · intro n
    revert n
    decide
  · unfold Window.TunablesSound
    decide
  · unfold State.HaltSound
    decide
  · exact ⟨by decide, by decide, by decide, by decide⟩
  · exact nofun

theorem witness_store_changes : ∃ t : State, exec (.powerFailHalt [] []) ready = .next t ∧ t.eng.store ≠ ready.eng.store ∧
    (∀ edge a b, Instr.powerFailHalt [] [] ≠ .chipReset edge a b) ∧ ready.eng.store ≠ .mounting :=
  ⟨_, rfl, by decide +kernel, fun _ _ _ => nofun, by decide +kernel⟩

theorem witness_flash_changes : ∃ s t : State, exec (.granuleProgramDone .p0 none) s = .next t ∧ t.flash ≠ s.flash :=
  ⟨running ⟨.request, 2, 15, .program (List.replicate 16 5) .exact⟩ ready, _, rfl, by decide +kernel⟩

end Sys2Proof.Tests
end

/-! PROOFS. The actions CLAIM, DISCARD and RELEASE on the selected slot (R97, R99, R100). -/

namespace Sys2Proof.Machine

/-! ### One command -/

/-- Out of reset, CLAIM does what R97 says of the action. -/
theorem exec_claim_open {s : State} (hl : s.resetLow = false) : exec .claim s = .next s.claimAction :=
  congrArg Host.Outcome.next (State.access_open hl _)

/-- Out of reset, DISCARD does what R99 says of the action. -/
theorem exec_discard_open {s : State} (hl : s.resetLow = false) : exec .discard s = .next s.discardAction :=
  congrArg Host.Outcome.next (State.access_open hl _)

/-- Out of reset, RELEASE does what R100 says of the action. -/
theorem exec_release_open {s : State} (hl : s.resetLow = false) : exec .release s = .next s.releaseAction :=
  congrArg Host.Outcome.next (State.access_open hl _)

/-! ### The effect on the slot -/

/-- A slot that is not hidden is not hidden after CLAIM either, so that of the slot's content its buffer alone is kept (R97). -/
theorem Slot.claimed_of_visible {x : Slot} (h : x.hidden = false) :
    x.claimed =
      { state := .opened, hidden := false, params := Params.zero, code := .ok, fields := ResultFields.zero,
        flags := ResultFlags.none, buffer := x.buffer, ptr := 0 } := by
  rw [← h]
  rfl

/-- VER0 to VER3 of a slot that does not read DONE show the expected version (R95). -/
theorem Slot.shownVersion_of_ne_done {x : Slot} (h : x.shown ≠ .done) : x.shownVersion = x.params.version :=
  if_neg h

/-- A slot put back to FREE reads FREE, whether a window reset has hidden it or not (R112). -/
theorem Slot.shown_freed (x : Slot) : Slot.shown { x with state := .free } = .free :=
  ite_self SlotState.free

/-! ### The actions, each as one choice on the slot's state -/

theorem State.claimAction_eq (s : State) :
    s.claimAction = if s.selected.state = .free ∧ s.selected.hidden = false then s.setSelected s.selected.claimed
      else s.windowFault .actionState :=
  if_congr (s.selectedIn_iff .free) rfl rfl

theorem State.discardAction_eq (s : State) :
    s.discardAction = if s.selected.state = .opened ∧ s.selected.hidden = false then s.setSelected { s.selected with state := .free }
      else s.windowFault .actionState :=
  if_congr (s.selectedIn_iff .opened) rfl rfl

theorem State.releaseAction_eq (s : State) :
    s.releaseAction = if s.selected.state = .done ∧ s.selected.hidden = false then s.released else s.windowFault .actionState :=
  if_congr (s.selectedIn_iff .done) rfl rfl

/-- RELEASE changes the slot and IFLAG alone. -/
theorem State.released_eq (s : State) :
    s.released = { s with win := { s.win with
      slots := s.win.slots.set s.win.sel { s.selected with state := .free }
      iflag := s.win.iflag &&& ~~~(IntFlag.slotDone s.win.sel).mask } } := rfl

/-- After RELEASE the selected slot is the one before, FREE. -/
theorem State.selected_released (s : State) : s.released.selected = { s.selected with state := .free } :=
  s.selected_setSelected _

/-- After RELEASE the version bytes show the expected version again (R95, R100). -/
theorem State.shownVersion_released (s : State) : s.released.selected.shownVersion = s.selected.params.version := by
  have hfree : s.released.selected.shown ≠ .done := by
    rw [State.selected_released, Slot.shown_freed]
    decide
  rw [Slot.shownVersion_of_ne_done hfree, State.selected_released]

/-! ### The statements -/

/-- Settles O3: each action is one choice on the selected slot's state, and a visible slot's claim leaves it visible. -/
theorem claimAndDiscard : Obligations.ClaimAndDiscard := by
  unfold Obligations.ClaimAndDiscard
  intro s hl refused
  constructor
  · rw [exec_claim_open hl, State.claimAction_eq]
    by_cases hfree : s.selected.state = .free ∧ s.selected.hidden = false
    · rw [if_pos hfree, if_pos hfree, Slot.claimed_of_visible hfree.2]
      rfl
    · rw [if_neg hfree, if_neg hfree, State.windowFault_eq]
  · rw [exec_discard_open hl, State.discardAction_eq, State.windowFault_eq]
    rfl

/-- Settles O5, by the two cases of RELEASE: a slot that reads DONE, and any other. -/
theorem releaseAction : Obligations.ReleaseAction := by
  unfold Obligations.ReleaseAction
  intro s hl
  rw [exec_release_open hl, State.releaseAction_eq]
  constructor
  · intro hdone hvisible
    rw [if_pos ⟨hdone, hvisible⟩]
    exact ⟨s.released, rfl, s.released_eq, s.shownVersion_released⟩
  · intro hother
    rw [if_neg hother, State.windowFault_eq]

end Sys2Proof.Machine

/-! PROOFS. What every step keeps (O56 to O60): one case analysis over the commands for the counters, the store state, flash and the
parameters (`Moves`), and one for soundness. -/

namespace Sys2Proof.Machine

set_option Elab.async false

/-! ### What a command may change -/

/-- The commands that end a granule program: by its completion or by its time limit (R24, R25). -/
def EndsProgram (c : Instr) : Prop := (∃ p x, c = .granuleProgramDone p x) ∨ ∃ p x, c = .programTimeout p x

/-- The commands other than CHIP_RESET that may change flash (R39). -/
def WritesFlash (c : Instr) : Prop :=
  (∃ p x, c = .granuleProgramDone p x) ∨ (∃ p x, c = .programTimeout p x) ∨ (∃ p x, c = .eraseBlankCheck p x) ∨
    (∃ p x, c = .eraseTimeout p x) ∨ ∃ x y, c = .powerFailHalt x y

/-- The commands other than CHIP_RESET that may change the parameters of the selected slot (R96, R97, R204). -/
def WritesParams (c : Instr) : Prop := c = .claim ∨ c = .actionCode 1 ∨ ∃ b v, c = .paramWrite b v

/-- No bit of flash that reads 0 in `m` reads 1 in `f` (R20). -/
def NoBitSet (m f : List Host.Cell) : Prop :=
  ∀ n o k, o < 4096 → (flashByte f n o).getLsbD k = true → (flashByte m n o).getLsbD k = true

/-- What a command other than CHIP_RESET may do to the store state, the counters, the mount findings, flash and the parameters. -/
structure Moves (c : Instr) (s t : State) : Prop where
  haltStays : s.eng.store = .halted → t.eng.store = .halted
  mounting : t.eng.store = .mounting → s.eng.store = .mounting
  raised : t.eng.store ≠ s.eng.store → t.win.flag .stateChg = true
  counters : s.eng.store ≠ .mounting →
    s.eng.writeSeq ≤ t.eng.writeSeq ∧ s.space.gen ≤ t.space.gen ∧ s.space.seqCtr ≤ t.space.seqCtr ∧ t.mnt.findings = s.mnt.findings
  flash : t.flash ≠ s.flash → WritesFlash c
  bits : EndsProgram c → NoBitSet s.flash t.flash
  params : ∀ n, (t.slot n).params ≠ (s.slot n).params → n = s.win.sel ∧ WritesParams c

variable {c : Instr} {s t u : State}

/-- What the blocks do within a step is no more than a command may. -/
theorem Moves.then (h : Moves c s u) (k : Evolves u t) : Moves c s t where
  haltStays := fun hs => k.haltStays (h.haltStays hs)
  mounting := fun ht => h.mounting (by_contra fun hu => (k.after hu).1 ht)
  raised := fun hne => by
    by_cases hu : u.eng.store = s.eng.store
    · exact k.raised (fun ht => hne (ht.trans hu))
    · exact or_getLsbD_mono k.iflag (h.raised hu)
  counters := fun hs => by
    obtain ⟨h1, h2, h3, h4⟩ := h.counters hs
    obtain ⟨-, k1, k2, k3, k4⟩ := k.after (fun hu => hs (h.mounting hu))
    exact ⟨h1.trans k1, h2.trans k2, h3.trans k3, (congrArg Mount.findings k4).trans h4⟩
  flash := fun hne => h.flash (by rwa [k.flash_eq] at hne)
  bits := fun hc => by
    rw [k.flash_eq]
    exact h.bits hc
  params := fun n hne => h.params n (by rwa [k.params_eq] at hne)

/-- The window unit, the reclaim engine and the fault counts set, and flash changed as the command may: the flags and the slots' parameters
alone are of concern. -/
theorem Moves.set {w : Window} {x : Reclaim} {y : FaultCounts} {f : List Host.Cell} (hf : f ≠ s.flash → WritesFlash c)
    (hb : EndsProgram c → NoBitSet s.flash f)
    (hp : ∀ n : SlotNo, (w.slots[n]).params ≠ (s.win.slots[n]).params → n = s.win.sel ∧ WritesParams c) :
    Moves c s { s with win := w, rcl := x, faults := y, flash := f } :=
  ⟨id, id, fun h => absurd rfl h, fun _ => ⟨Nat.le_refl _, Nat.le_refl _, Nat.le_refl _, rfl⟩, hf, hb, hp⟩

theorem NoBitSet.refl (m : List Host.Cell) : NoBitSet m m := fun _ _ _ _ h => h

/-- The window unit and the reclaim engine set. -/
theorem Moves.win {w : Window} {x : Reclaim}
    (hp : ∀ n : SlotNo, (w.slots[n]).params ≠ (s.win.slots[n]).params → n = s.win.sel ∧ WritesParams c) :
    Moves c s { s with win := w, rcl := x } :=
  Moves.set (y := s.faults) (f := s.flash) (absurd rfl) (fun _ => .refl _) hp

/-- The host's bytes of the window set. -/
theorem Moves.host {w : Window} {x : Reclaim} (h : w.slots = s.win.slots) : Moves c s { s with win := w, rcl := x } :=
  Moves.win fun n hne => absurd (by rw [h]) hne

theorem Moves.refl (c : Instr) (s : State) : Moves c s s := Moves.host (w := s.win) (x := s.rcl) rfl

theorem Moves.of_evolves (h : Evolves s t) : Moves c s t := (Moves.refl c s).then h

theorem Moves.windowFault (f : WindowFault) : Moves c s (s.windowFault f) := Moves.host (x := s.rcl) rfl

/-- The selected slot set, the queue and the other bytes of the window with it: a change of parameters is for the command to account for. -/
theorem Moves.selected {x : Slot} {w : Window} (hw : w.slots = s.win.slots.set s.win.sel x)
    (hx : x.params ≠ s.selected.params → WritesParams c) : Moves c s { s with win := w } := by
  refine Moves.win (x := s.rcl) fun n hne => ?_
  rw [hw, slot_get_set] at hne
  split at hne
  · next e =>
    subst e
    exact ⟨rfl, hx hne⟩
  · exact absurd rfl hne

theorem Moves.access (h : Moves c s t) : Moves c s (s.access t) := by
  unfold State.access
  split
  · exact .refl c s
  · exact h

/-- The host's bytes of the window set by an access. -/
theorem Moves.hostAccess {w : Window} (h : w.slots = s.win.slots) : Moves c s (s.access { s with win := w }) :=
  Moves.access (Moves.host (x := s.rcl) h)

/-- The host's bytes of the window set by an access that tests the start conditions (R156). -/
theorem Moves.hostTest {w : Window} {x : Reclaim} (h : w.slots = s.win.slots) :
    Moves c s (s.access { s with win := w, rcl := x }.startTest) :=
  Moves.access ((Moves.host h).then (Evolves.refl _).startTest)

/-! ### The actions and accesses of the host -/

theorem claimAction_moves (hc : WritesParams c) (s : State) : Moves c s s.claimAction := by
  unfold State.claimAction
  split
  · exact .selected rfl fun _ => hc
  · exact .windowFault _

theorem submitAction_moves (c : Instr) (s : State) : Moves c s s.submitAction := by
  unfold State.submitAction
  split
  · split
    · exact .selected (x := s.selected.finish .powerFail ResultFields.zero ResultFlags.none) rfl (absurd rfl)
    · exact Moves.then (.selected (x := { s.selected with state := .queued }) rfl (absurd rfl)) (Evolves.refl _).takeHead
  · exact .windowFault _

theorem discardAction_moves (c : Instr) (s : State) : Moves c s s.discardAction := by
  unfold State.discardAction
  split
  · exact .selected (x := { s.selected with state := .free }) rfl (absurd rfl)
  · exact .windowFault _

theorem abortAction_moves (c : Instr) (s : State) : Moves c s s.abortAction := by
  unfold State.abortAction
  split
  · exact .selected (x := s.selected.finish .aborted ResultFields.zero ResultFlags.none) rfl (absurd rfl)
  · split
    · exact .of_evolves (Evolves.refl s).abortRequest.settle
    · exact .windowFault _

theorem releaseAction_moves (c : Instr) (s : State) : Moves c s s.releaseAction := by
  unfold State.releaseAction
  split
  · exact .selected (x := { s.selected with state := .free }) rfl (absurd rfl)
  · exact .windowFault _

/-- The value 0x01 alone names CLAIM (R204). -/
theorem actionOf_eq_claim {v : Byte} (h : actionOf v = some .claim) : v = 1 := by
  revert v
  decide

theorem actionCode_moves (v : Byte) (s : State) :
    Moves (.actionCode v) s (match actionOf v with | some a => s.act a | none => s.windowFault .actionCode) := by
  split
  · next a ha =>
    cases a with
    | claim => exact claimAction_moves (.inr (.inl (by rw [actionOf_eq_claim ha]))) s
    | submit => exact submitAction_moves _ s
    | discard => exact discardAction_moves _ s
    | abort => exact abortAction_moves _ s
    | release => exact releaseAction_moves _ s
  · exact .windowFault _

theorem windowReset_moves (c : Instr) (low : BitVec 7) (s : State) :
    Moves c s { s with win := s.win.windowReset low }.abortRequest.settle := by
  refine Moves.then (Moves.win (x := s.rcl) fun n hne => absurd ?_ hne) (Evolves.refl _).abortRequest.settle
  have hslot : ((s.win.windowReset low).slots[n]) = (s.win.slots[n]).windowReset := s.windowReset_slot low n
  rw [hslot]
  unfold Slot.windowReset
  split <;> rfl

theorem bdataRead_moves (c : Instr) (s : State) : ∃ t, execBdataRead s = .next t ∧ Moves c s t := by
  refine ⟨_, rfl, ?_⟩
  split
  · exact .host (x := s.rcl) rfl
  · split
    · exact .selected (x := { s.selected with ptr := s.selected.ptr + 1 }) rfl (absurd rfl)
    · exact .host (x := s.rcl) rfl

theorem bdataWrite_moves (c : Instr) (v : Byte) (s : State) :
    Moves c s (if s.selected.bufferOpen then
        s.setSelected { s.selected with
          buffer := cellSet 0 s.selected.buffer s.selected.ptr.toNat v, ptr := s.selected.ptr + 1 }
      else s.windowFault .bufferState) := by
  split
  · exact .selected rfl (absurd rfl)
  · exact .windowFault _

theorem bptrWrite_moves (c : Instr) (v : Byte) (s : State) :
    Moves c s (if s.selected.bufferOpen then s.setSelected { s.selected with ptr := v } else s.windowFault .bufferState) := by
  split
  · exact .selected rfl (absurd rfl)
  · exact .windowFault _

theorem paramWrite_moves (b : ParamByte) (v : Byte) (s : State) :
    Moves (.paramWrite b v) s (if s.selectedIn .opened then s.setSelected { s.selected with params := s.selected.params.put b v }
      else s.windowFault .paramState) := by
  split
  · exact .selected rfl fun _ => .inr (.inr ⟨b, v, rfl⟩)
  · exact .windowFault _

theorem slotselWrite_moves (c : Instr) (v : Byte) (s : State) :
    Moves c s (if h : v.toNat < 4 then { s with win := { s.win with sel := ⟨v.toNat, h⟩ } } else s.windowFault .selectRange) := by
  split
  · exact .host (x := s.rcl) rfl
  · exact .windowFault _

/-! ### Flash -/

/-- No bit of the granule content `g` is set that is clear in `old`. -/
def BitsWithin (old g : List Byte) : Prop := ∀ i k, (g.getD i 0).getLsbD k = true → (old.getD i 0).getLsbD k = true

theorem BitsWithin.refl (l : List Byte) : BitsWithin l l := fun _ _ h => h

/-- What a program makes of a granule sets no bit of it (R20). -/
theorem BitsWithin.zipWith_and (old x : List Byte) : BitsWithin old (List.zipWith (· &&& ·) old x) := fun i k h => by
  rw [getD_zipWith_and, BitVec.getLsbD_and, Bool.and_eq_true] at h
  exact h.1

theorem BitsWithin.faultLeaves {old given x : List Byte} {role : GranuleRole} (h : BitsWithin old x) :
    BitsWithin old (faultLeaves role old given x) := by
  unfold Machine.faultLeaves
  split
  · exact h
  · exact .refl old

theorem BitsWithin.failedVerify {old given x : List Byte} {mode : Verify} {role : GranuleRole} (h : BitsWithin old x) :
    BitsWithin old (failedVerify mode role old given x) := by
  cases mode with
  | exact => exact h.faultLeaves
  | notErased => exact h

theorem BitsWithin.timedOut (mode : Verify) (role : GranuleRole) (old given kept : List Byte) :
    BitsWithin old (timedOut mode role old given kept) := by
  cases mode with
  | exact => exact (BitsWithin.zipWith_and old _).faultLeaves
  | notErased => exact .refl old

/-- A granule whose bits stay within what it held sets no bit of flash. -/
theorem NoBitSet.writeGranule {m : List Host.Cell} {n : SectorNo} {g : Nat} {x : List Byte} (hg : g < 512) (hx : x.length ≤ 8)
    (h : BitsWithin (flashRead m n (8 * g) 8) x) : NoBitSet m (flashWrite m n (8 * g) x) := by
  intro n' o k ho hk
  rw [flashByte_flashWrite (by omega) n' ho] at hk
  split at hk
  · next hin =>
    obtain ⟨rfl, hlo, hhi⟩ := hin
    have hold := h _ _ hk
    rwa [getD_flashRead _ _ _ (by omega), Nat.add_sub_cancel' hlo] at hold
  · exact hk

/-- A granule program that ends in a granule `x` sets no bit, and may be followed by a fault count. -/
theorem Moves.granule {cl : Claim} {done : Nat} {x : List Byte} {y : FaultCounts} (hc : WritesFlash c) (hg : cl.first + done < 512)
    (hx : x.length ≤ 8) (h : BitsWithin (s.granuleAt cl done) x) : Moves c s { s.setGranule cl done x with faults := y } :=
  Moves.set (w := s.win) (x := s.rcl) (fun _ => hc) (fun _ => NoBitSet.writeGranule hg hx h) fun _ hne => absurd rfl hne

/-- Flash written by an event that is no granule program. -/
theorem Moves.writeFlash {f : List Host.Cell} {y : FaultCounts} (hc : WritesFlash c) (hp : ¬ EndsProgram c) :
    Moves c s { s with flash := f, faults := y } :=
  Moves.set (w := s.win) (x := s.rcl) (fun _ => hc) (fun h => absurd h hp) fun _ hne => absurd rfl hne

/-! ### The halt -/

/-- The part as the halt leaves it before the queue and the request engine hear of it (R190, R36, R172). -/
def State.halting (s : State) (l0 l1 : List Host.Cell) : State :=
  { s with
    halted := true, pl0 := s.pl0.halt, pl1 := s.pl1.halt, eng := { s.eng with store := .halted }, rcl := s.rcl.idled
    flash := abandonErase (abandonErase s.flash s.pl0 l0) s.pl1 l1
    win := if s.eng.store = .halted then s.win else s.win.raise .stateChg }

theorem State.halting_eq (s : State) (l0 l1 : List Host.Cell) :
    (({ s with halted := true }.haltPlanes l0 l1).setStore .halted).reclaimHalt = s.halting l0 l1 := by
  unfold State.halting
  by_cases h : s.eng.store = .halted
  · rw [if_pos h, ← h, State.setStore, if_pos (.inl rfl)]
    rfl
  · rw [if_neg h, State.setStore, if_neg (by rintro (h' | h') <;> exact h h')]
    rfl

theorem State.halt_eq (s : State) (l0 l1 : List Host.Cell) :
    s.halt l0 l1 = ((s.halting l0 l1).haltQueue.haltRequest).settle := by
  rw [State.halt, State.halting_eq]

theorem State.halting_queue (s : State) (l0 l1 : List Host.Cell) : (s.halting l0 l1).win.queue = s.win.queue := by
  unfold State.halting
  dsimp only
  split <;> rfl

theorem State.halting_slot (s : State) (l0 l1 : List Host.Cell) (n : SlotNo) : (s.halting l0 l1).slot n = s.slot n := by
  unfold State.halting State.slot
  dsimp only
  split <;> rfl

/-- The halt raises STATE_CHG where it changes the store state (R7). -/
theorem State.halting_stateChg {s : State} (h : s.eng.store ≠ .halted) (l0 l1 : List Host.Cell) :
    (s.halting l0 l1).win.flag .stateChg = true := by
  unfold State.halting
  dsimp only
  rw [if_neg h]
  show (s.win.iflag ||| IntFlag.stateChg.mask).getLsbD 5 = true
  rw [BitVec.getLsbD_or, getLsbD_stateChg_mask, Bool.or_true]

theorem IntFlag.getLsbD_slotDone_mask (n : SlotNo) : (IntFlag.slotDone n).mask.getLsbD (IntFlag.slotDone n).bit = true := by
  revert n
  decide

/-- The slots of the queue ended raise their SLOTDONE flags and clear none. -/
theorem endSlot_foldl_iflag : ∀ (l : List SlotNo) (u : State),
    let t := l.foldl (fun t n => t.endSlot n .powerFail) u
    u.win.iflag ||| t.win.iflag = t.win.iflag ∧ ∀ n ∈ l, t.win.flag (.slotDone n) = true
  | [], u => ⟨BitVec.or_self, fun _ h => nomatch h⟩
  | m :: l, u => by
    obtain ⟨hmono, hflags⟩ := endSlot_foldl_iflag l (u.endSlot m .powerFail)
    have hraise : (u.endSlot m .powerFail).win.iflag = u.win.iflag ||| (IntFlag.slotDone m).mask := rfl
    rw [hraise] at hmono
    refine ⟨?_, fun n hn => ?_⟩
    · rw [List.foldl_cons, ← hmono, BitVec.or_assoc, ← BitVec.or_assoc, BitVec.or_self]
    · rcases List.mem_cons.1 hn with rfl | hn
      · refine or_getLsbD_mono hmono ?_
        rw [BitVec.getLsbD_or, IntFlag.getLsbD_slotDone_mask, Bool.or_true]
      · exact hflags n hn

/-- What the halt makes of the window unit: every slot of the queue ends POWER_FAIL, its SLOTDONE flag is raised, and the queue is empty
(R194). -/
theorem State.haltQueue_eq (s : State) : ∃ slots iflag,
    s.haltQueue = { s with win := { s.win with slots := slots, queue := [], iflag := iflag } } ∧
      (∀ k : SlotNo, slots[k] = if k ∈ s.win.queue then (s.slot k).finish .powerFail ResultFields.zero ResultFlags.none else s.slot k) ∧
      s.win.iflag ||| iflag = iflag ∧ ∀ n ∈ s.win.queue, iflag.getLsbD n.val = true := by
  obtain ⟨slots, iflag, heq, hslots⟩ := endSlot_foldl s.win.queue { s with win := { s.win with queue := [] } }
  obtain ⟨hmono, hflags⟩ := endSlot_foldl_iflag s.win.queue { s with win := { s.win with queue := [] } }
  rw [heq] at hmono hflags
  exact ⟨slots, iflag, heq, hslots, hmono, hflags⟩

theorem halt_moves (l0 l1 : List Host.Cell) (s : State) : Moves (.powerFailHalt l0 l1) s (s.halt l0 l1) := by
  rw [State.halt_eq]
  obtain ⟨slots, iflag, heq, hslots, hmono, -⟩ := (s.halting l0 l1).haltQueue_eq
  have hqueue : Moves (.powerFailHalt l0 l1) s (s.halting l0 l1).haltQueue := by
    rw [heq]
    refine ⟨fun _ => rfl, (fun h => nomatch h), fun h => or_getLsbD_mono hmono (State.halting_stateChg (fun hs => h hs.symm) l0 l1),
      fun _ => ⟨Nat.le_refl _, Nat.le_refl _, Nat.le_refl _, rfl⟩, fun _ => .inr (.inr (.inr (.inr ⟨l0, l1, rfl⟩))), ?_,
      fun n hne => absurd ?_ hne⟩
    · rintro (⟨_, _, h⟩ | ⟨_, _, h⟩) <;> exact nomatch h
    · show (slots[n]).params = (s.slot n).params
      rw [hslots n, State.halting_slot]
      split <;> rfl
  exact hqueue.then (Evolves.refl _).haltRequest.settle

/-! ### The events at the plane controllers -/

theorem readRunDone_evolves {p : PlaneId} {k : Nat} (h : execReadRunDone p k s = .next t) : Evolves s t := by
  unfold execReadRunDone at h
  split at h
  · exact Host.Outcome.next.inj h ▸ .refl s
  · split at h
    · split at h
      · exact nomatch h
      · exact Host.Outcome.next.inj h ▸ runEnded_evolves ..
    · exact Host.Outcome.next.inj h ▸ .refl s

theorem granuleProgramDone_moves {p : PlaneId} {flaw : Option (List Byte)} (h : execGranuleProgramDone p flaw s = .next t) :
    Moves (.granuleProgramDone p flaw) s t := by
  have hc : WritesFlash (.granuleProgramDone p flaw) := .inl ⟨p, flaw, rfl⟩
  unfold execGranuleProgramDone at h
  split at h
  · obtain rfl := Host.Outcome.next.inj h
    exact .refl _ s
  · next r hr =>
    split at h
    · split at h
      · exact nomatch h
      · next hg =>
        have hg : r.claim.first + r.done < 512 := Nat.lt_of_not_le hg
        obtain rfl := Host.Outcome.next.inj h
        have hold : (s.granuleAt r.claim r.done).length = 8 := length_flashRead ..
        split
        · exact Moves.then (Moves.granule (y := s.faults) hc hg (length_programmed_le hold) (.zipWith_and _ _))
            (granuleVerified_evolves _ p r _)
        · exact Moves.then (Moves.granule hc hg (length_failedVerify hold (length_programmed_le hold))
            (BitsWithin.zipWith_and _ _).failedVerify) (runEnded_evolves ..)
    · obtain rfl := Host.Outcome.next.inj h
      exact .refl _ s

theorem programTimeout_moves {p : PlaneId} {kept : List Byte} (h : execProgramTimeout p kept s = .next t) :
    Moves (.programTimeout p kept) s t := by
  unfold execProgramTimeout at h
  split at h
  · obtain rfl := Host.Outcome.next.inj h
    exact .refl _ s
  · next r hr =>
    split at h
    · split at h
      · exact nomatch h
      · next hg =>
        obtain rfl := Host.Outcome.next.inj h
        exact Moves.then (Moves.granule (.inr (.inl ⟨p, kept, rfl⟩)) (Nat.lt_of_not_le hg) (length_timedOut (length_flashRead ..))
          (.timedOut _ _ _ _ _)) (runEnded_evolves ..)
    · obtain rfl := Host.Outcome.next.inj h
      exact .refl _ s

theorem eraseBlankCheck_moves {p : PlaneId} {left : List Host.Cell} (h : execEraseBlankCheck p left s = .next t) :
    Moves (.eraseBlankCheck p left) s t := by
  have hc : WritesFlash (.eraseBlankCheck p left) := .inr (.inr (.inl ⟨p, left, rfl⟩))
  have hp : ¬ EndsProgram (.eraseBlankCheck p left) := by rintro (⟨_, _, h⟩ | ⟨_, _, h⟩) <;> exact nomatch h
  unfold execEraseBlankCheck at h
  split at h
  · obtain rfl := Host.Outcome.next.inj h
    exact .refl _ s
  · obtain rfl := Host.Outcome.next.inj h
    dsimp only
    split
    · exact Moves.then (Moves.writeFlash (y := s.faults) hc hp) (eraseEnded_evolves ..)
    · exact Moves.then (Moves.writeFlash hc hp) (eraseEnded_evolves ..)

theorem eraseTimeout_moves {p : PlaneId} {left : List Host.Cell} (h : execEraseTimeout p left s = .next t) :
    Moves (.eraseTimeout p left) s t := by
  have hc : WritesFlash (.eraseTimeout p left) := .inr (.inr (.inr (.inl ⟨p, left, rfl⟩)))
  have hp : ¬ EndsProgram (.eraseTimeout p left) := by rintro (⟨_, _, h⟩ | ⟨_, _, h⟩) <;> exact nomatch h
  unfold execEraseTimeout at h
  split at h
  · obtain rfl := Host.Outcome.next.inj h
    exact .refl _ s
  · obtain rfl := Host.Outcome.next.inj h
    exact Moves.then (Moves.writeFlash hc hp) (eraseEnded_evolves ..)

/-! ### READ, SELECT and SUSPEND_COMPLETE -/

theorem execRead_evolves (h : execRead s = .next t) : Evolves s t := by
  unfold execRead at h
  split at h
  · next r hr =>
    obtain rfl := Host.Outcome.next.inj h
    have hreq : s.eng.req = some r := by
      unfold State.atLookup at hr
      split at hr
      · next q hq =>
        split at hr
        · rw [hq, ← hr]
        · exact nomatch hr
      · exact nomatch hr
    exact (Serving.readLookup ((Evolves.refl s).serving hreq)).settle
  · obtain rfl := Host.Outcome.next.inj h
    exact serve_evolves s _ _ fun r t h => h.startRead

theorem execSelect_evolves (h : execSelect s = .next t) : Evolves s t := by
  unfold execSelect at h
  obtain rfl := Host.Outcome.next.inj h
  split
  · exact (Evolves.refl s).startTest.selectRow.settle
  · exact .refl s

/-- SUSPEND_COMPLETE acts on the plane alone, and keeps it sound (R31, R33). -/
theorem execSuspendComplete_eq {p : PlaneId} (h : execSuspendComplete p s = .next t) :
    t = s ∨ ∃ e, (s.plane p).erase = some e ∧ e.cond = .suspending ∧ t = s.setPlane p ((s.plane p).suspend s.win.suslim e) := by
  unfold execSuspendComplete at h
  split at h
  · obtain rfl := Host.Outcome.next.inj h
    exact .inl rfl
  · next e he =>
    obtain rfl := Host.Outcome.next.inj h
    split
    · next hc => exact .inr ⟨e, he, hc, rfl⟩
    · exact .inl rfl

theorem execSuspendComplete_evolves {p : PlaneId} (h : execSuspendComplete p s = .next t) : Evolves s t := by
  obtain rfl | ⟨e, he, hc, rfl⟩ := execSuspendComplete_eq h
  · exact .refl _
  · exact (Evolves.refl s).setPlane fun hs hp => Plane.suspend_sound hp he hc hs

/-! ### Every command -/

/-- No command but CHIP_RESET goes beyond `Moves`. The rows of the request engine, SELECT and the events that change no flash evolve the
state; the others set parts of it first. -/
theorem exec_moves (hc : ∀ edge a b, c ≠ .chipReset edge a b) (h : exec c s = .next t) : Moves c s t := by
  cases c with
  | chipReset edge a b => exact absurd rfl (hc edge a b)
  | powerFailHalt l0 l1 =>
    obtain rfl := Host.Outcome.next.inj h
    split
    · exact .refl _ s
    · exact halt_moves l0 l1 s
  | claim => exact Host.Outcome.next.inj h ▸ (claimAction_moves (.inl rfl) s).access
  | submit => exact Host.Outcome.next.inj h ▸ (submitAction_moves _ s).access
  | discard => exact Host.Outcome.next.inj h ▸ (discardAction_moves _ s).access
  | abort => exact Host.Outcome.next.inj h ▸ (abortAction_moves _ s).access
  | release => exact Host.Outcome.next.inj h ▸ (releaseAction_moves _ s).access
  | actionCode v => exact Host.Outcome.next.inj h ▸ (actionCode_moves v s).access
  | windowReset low => exact Host.Outcome.next.inj h ▸ (windowReset_moves _ low s).access
  | reclaimMode low =>
    obtain rfl := Host.Outcome.next.inj h
    exact Moves.hostTest rfl
  | iflagWrite v =>
    obtain rfl := Host.Outcome.next.inj h
    exact Moves.hostAccess rfl
  | imaskWrite v =>
    obtain rfl := Host.Outcome.next.inj h
    exact Moves.hostAccess rfl
  | lowmkWrite v =>
    obtain rfl := Host.Outcome.next.inj h
    exact Moves.hostTest rfl
  | suslimWrite v =>
    obtain rfl := Host.Outcome.next.inj h
    exact Moves.hostAccess rfl
  | wearspWrite v =>
    obtain rfl := Host.Outcome.next.inj h
    exact Moves.hostTest rfl
  | slotselWrite v => exact Host.Outcome.next.inj h ▸ (slotselWrite_moves _ v s).access
  | bdataRead =>
    obtain ⟨u, hu, hm⟩ := bdataRead_moves .bdataRead s
    exact Host.Outcome.next.inj (hu.symm.trans h) ▸ hm
  | bdataWrite v => exact Host.Outcome.next.inj h ▸ (bdataWrite_moves _ v s).access
  | bptrWrite v => exact Host.Outcome.next.inj h ▸ (bptrWrite_moves _ v s).access
  | paramWrite b v => exact Host.Outcome.next.inj h ▸ (paramWrite_moves b v s).access
  | readOnlyByteWrite b v => exact Host.Outcome.next.inj h ▸ .refl _ s
  | read => exact .of_evolves (execRead_evolves h)
  | write => exact Host.Outcome.next.inj h ▸ .of_evolves (serve_evolves s _ _ fun _ _ h => h.startWrite)
  | delete => exact Host.Outcome.next.inj h ▸ .of_evolves (serve_evolves s _ _ fun _ _ h => h.startDelete)
  | findNext => exact Host.Outcome.next.inj h ▸ .of_evolves (serve_evolves s _ _ fun _ _ h => h.startFindNext)
  | report => exact Host.Outcome.next.inj h ▸ .of_evolves (serve_evolves s _ _ fun _ _ h => h.startReport)
  | reclaim => exact Host.Outcome.next.inj h ▸ .of_evolves (serve_evolves s _ _ fun _ _ h => h.startReclaim)
  | classSet => exact Host.Outcome.next.inj h ▸ .of_evolves (serve_evolves s _ _ fun _ _ h => h.startClassSet)
  | classFreeze => exact Host.Outcome.next.inj h ▸ .of_evolves (serve_evolves s _ _ fun _ _ h => h.startClassFreeze)
  | format => exact Host.Outcome.next.inj h ▸ .of_evolves (serve_evolves s _ _ fun _ _ h => h.startFormat)
  | badRequest => exact Host.Outcome.next.inj h ▸ .of_evolves (serve_evolves s _ _ fun _ _ h => h.startBad)
  | readRunDone p k => exact Moves.of_evolves (readRunDone_evolves h)
  | granuleProgramDone p flaw => exact granuleProgramDone_moves h
  | programTimeout p kept => exact programTimeout_moves h
  | eraseBlankCheck p left => exact eraseBlankCheck_moves h
  | eraseTimeout p left => exact eraseTimeout_moves h
  | suspendComplete p => exact .of_evolves (execSuspendComplete_evolves h)
  | select => exact .of_evolves (execSelect_evolves h)

/-- Settles O58: HALTED stays, MOUNTING is not entered, and STATE_CHG follows every change (`Moves`). -/
theorem storeStateChanges : Obligations.StoreStateChanges := by
  unfold Obligations.StoreStateChanges
  intro c s t h hc
  have hm := exec_moves hc h
  exact ⟨hm.haltStays, hm.mounting, hm.raised⟩

/-- Settles O59: the counters and the findings after mount (`Moves`). -/
theorem countersNeverFall : Obligations.CountersNeverFall := by
  unfold Obligations.CountersNeverFall
  intro c s t h hc hs
  exact (exec_moves hc h).counters hs

/-- Settles O60: who changes flash and who changes parameters (`Moves`). -/
theorem flashAndParameterChanges : Obligations.FlashAndParameterChanges := by
  unfold Obligations.FlashAndParameterChanges
  intro c s t h hc
  have hm := exec_moves hc h
  exact ⟨hm.flash, hm.bits, hm.params⟩

/-! ### Soundness -/

/-- A part held in reset is at its chip-reset values, whatever commands wait. -/
theorem State.Sound.setPending (hs : s.Sound) (q : List Instr) : ({ s with pending := q } : State).Sound :=
  ⟨hs.flash, hs.buffers, hs.index, hs.plane0, hs.plane1, hs.tunables, hs.halt, hs.seats, fun h => by
    rw [hs.held h]
    rfl⟩

/-- A sound state let out of reset is sound. -/
theorem State.Sound.released (hs : s.Sound) : ({ s with resetLow := false } : State).Sound :=
  ⟨hs.flash, hs.buffers, hs.index, hs.plane0, hs.plane1, hs.tunables, hs.halt, hs.seats, nofun⟩

theorem State.Sound.flashKept (hs : s.Sound) : FlashKept s.flash := (flashKept_iff s).1 hs.flash

/-- CHIP_RESET keeps a state sound at either edge (R207). -/
theorem execChipReset_sound {edge : ResetEdge} {a b : Torn} (hs : s.Sound) (h : execChipReset edge a b s = .next t) : t.Sound := by
  cases edge with
  | asserted =>
    obtain rfl := Host.Outcome.next.inj h
    exact State.atReset_sound (hs.flashKept.flashCut a b) _
  | released low =>
    obtain rfl := Host.Outcome.next.inj h
    split
    · next hl =>
      unfold State.leaveReset
      dsimp only
      split
      · exact hs.released.halted rfl _ _
      · refine ((Evolves.refl _).headerAt ?_).sound hs.released rfl
        rw [hs.held hl]
        rfl
    · exact hs

theorem granuleProgramDone_sound {p : PlaneId} {flaw : Option (List Byte)} (hs : s.Sound) (hl : s.resetLow = false)
    (h : execGranuleProgramDone p flaw s = .next t) : t.Sound := by
  unfold execGranuleProgramDone at h
  split at h
  · exact Host.Outcome.next.inj h ▸ hs
  · next r hr =>
    split at h
    · split at h
      · exact nomatch h
      · next hg =>
        have hg : r.claim.first + r.done < 512 := Nat.lt_of_not_le hg
        obtain rfl := Host.Outcome.next.inj h
        have hold : (s.granuleAt r.claim r.done).length = 8 := length_flashRead ..
        split
        · exact (granuleVerified_evolves ..).sound (hs.setGranule hl hg (length_programmed_le hold)) hl
        · exact (hs.setGranule hl hg (length_failedVerify hold (length_programmed_le hold))).granuleFaulted hl p r
    · exact Host.Outcome.next.inj h ▸ hs

theorem programTimeout_sound {p : PlaneId} {kept : List Byte} (hs : s.Sound) (hl : s.resetLow = false)
    (h : execProgramTimeout p kept s = .next t) : t.Sound := by
  unfold execProgramTimeout at h
  split at h
  · exact Host.Outcome.next.inj h ▸ hs
  · next r hr =>
    split at h
    · split at h
      · exact nomatch h
      · next hg =>
        obtain rfl := Host.Outcome.next.inj h
        exact (hs.setGranule hl (Nat.lt_of_not_le hg) (length_timedOut (length_flashRead ..))).granuleFaulted hl p r
    · exact Host.Outcome.next.inj h ▸ hs

theorem eraseBlankCheck_sound {p : PlaneId} {left : List Host.Cell} (hs : s.Sound) (hl : s.resetLow = false)
    (h : execEraseBlankCheck p left s = .next t) : t.Sound := by
  unfold execEraseBlankCheck at h
  split at h
  · exact Host.Outcome.next.inj h ▸ hs
  · next e he =>
    obtain rfl := Host.Outcome.next.inj h
    have hload := hs.setFlash hl (hs.flashKept.load e.sector left)
    dsimp only
    split
    · exact (eraseEnded_evolves ..).sound hload hl
    · exact (eraseEnded_evolves ..).sound (hload.setFaults hl) hl

theorem eraseTimeout_sound {p : PlaneId} {left : List Host.Cell} (hs : s.Sound) (hl : s.resetLow = false)
    (h : execEraseTimeout p left s = .next t) : t.Sound := by
  unfold execEraseTimeout at h
  split at h
  · exact Host.Outcome.next.inj h ▸ hs
  · next e he =>
    obtain rfl := Host.Outcome.next.inj h
    have hload := hs.setFlash hl (hs.flashKept.load e.sector left)
    exact (eraseEnded_evolves ..).sound (hload.setFaults hl) hl

theorem State.Sound.access (hs : s.Sound) (ht : s.resetLow = false → t.Sound) : (s.access t).Sound := by
  unfold State.access
  split
  · exact hs
  · next hl => exact ht (Bool.eq_false_iff.2 hl)

/-- A byte stored through BDATA keeps the slot's buffer in its form (R106). -/
theorem State.Sound.bdataWrite (hs : s.Sound) (hl : s.resetLow = false) (v : Byte) :
    (if s.selected.bufferOpen then
        s.setSelected { s.selected with
          buffer := cellSet 0 s.selected.buffer s.selected.ptr.toNat v, ptr := s.selected.ptr + 1 }
      else s.windowFault .bufferState : State).Sound := by
  split
  · exact hs.setSelected hl (bufferSound_set (hs.buffers s.win.sel) _ _) rfl rfl
  · exact hs.windowFault hl _

theorem State.Sound.bptrWrite (hs : s.Sound) (hl : s.resetLow = false) (v : Byte) :
    (if s.selected.bufferOpen then s.setSelected { s.selected with ptr := v } else s.windowFault .bufferState : State).Sound := by
  split
  · exact hs.setSelected hl (hs.buffers s.win.sel) rfl rfl
  · exact hs.windowFault hl _

theorem State.Sound.paramWrite (hs : s.Sound) (hl : s.resetLow = false) (b : ParamByte) (v : Byte) :
    (if s.selectedIn .opened then s.setSelected { s.selected with params := s.selected.params.put b v }
      else s.windowFault .paramState : State).Sound := by
  split
  · exact hs.setSelected hl (hs.buffers s.win.sel) rfl rfl
  · exact hs.windowFault hl _

theorem State.Sound.slotselWrite (hs : s.Sound) (hl : s.resetLow = false) (v : Byte) :
    (if h : v.toNat < 4 then { s with win := { s.win with sel := ⟨v.toNat, h⟩ } } else s.windowFault .selectRange : State).Sound := by
  split
  · exact hs.setHost hl rfl rfl hs.tunables
  · exact hs.windowFault hl _

/-- The host's bytes of the window set by an access that tests the start conditions, the latch with them. -/
theorem State.Sound.hostTest (hs : s.Sound) {w : Window} {x : Reclaim} (h1 : w.slots = s.win.slots) (h2 : w.queue = s.win.queue)
    (ht : w.TunablesSound) : (s.access { s with win := w, rcl := x }.startTest).Sound :=
  hs.access fun hl => (Evolves.rcl (Evolves.refl _)).startTest.sound (hs.setHost hl h1 h2 ht) hl

theorem State.Sound.hostAccess (hs : s.Sound) {w : Window} (h1 : w.slots = s.win.slots) (h2 : w.queue = s.win.queue)
    (ht : w.TunablesSound) : (s.access { s with win := w }).Sound :=
  hs.access fun hl => hs.setHost hl h1 h2 ht

/-- Every command keeps a sound state sound. While RESET# is held low none but CHIP_RESET changes anything. -/
theorem exec_sound (hs : s.Sound) (h : exec c s = .next t) : t.Sound := by
  by_cases hc : ∀ edge a b, c ≠ .chipReset edge a b
  case neg =>
    push Not at hc
    obtain ⟨edge, a, b, rfl⟩ := hc
    exact execChipReset_sound hs h
  by_cases hl : s.resetLow = true
  · rw [hs.held hl, exec_held c hc] at h
    rw [← Host.Outcome.next.inj h, ← hs.held hl]
    exact hs
  · rw [Bool.not_eq_true] at hl
    obtain ⟨hlow1, hlow2, hsus, hwear1, hwear2⟩ := hs.tunables
    cases c with
    | chipReset edge a b => exact absurd rfl (hc edge a b)
    | powerFailHalt l0 l1 =>
      obtain rfl := Host.Outcome.next.inj h
      split
      · exact hs
      · exact hs.halted hl l0 l1
    | claim => exact Host.Outcome.next.inj h ▸ hs.access hs.claimAction
    | submit => exact Host.Outcome.next.inj h ▸ hs.access hs.submitAction
    | discard => exact Host.Outcome.next.inj h ▸ hs.access hs.discardAction
    | abort => exact Host.Outcome.next.inj h ▸ hs.access hs.abortAction
    | release => exact Host.Outcome.next.inj h ▸ hs.access hs.releaseAction
    | actionCode v => exact Host.Outcome.next.inj h ▸ hs.access fun hl => hs.actionCode hl v
    | windowReset low => exact Host.Outcome.next.inj h ▸ hs.access fun hl => hs.windowReset hl low
    | reclaimMode low => exact Host.Outcome.next.inj h ▸ hs.hostTest (x := s.rcl) rfl rfl hs.tunables
    | iflagWrite v => exact Host.Outcome.next.inj h ▸ hs.hostAccess rfl rfl hs.tunables
    | imaskWrite v => exact Host.Outcome.next.inj h ▸ hs.hostAccess rfl rfl hs.tunables
    | lowmkWrite v =>
      obtain ⟨h1, h2⟩ := clamp_bounds (lo := 2) (hi := 16) (n := v.toNat) (by decide)
      exact Host.Outcome.next.inj h ▸ hs.hostTest (x := s.rcl) rfl rfl ⟨h1, h2, hsus, hwear1, hwear2⟩
    | suslimWrite v =>
      obtain ⟨-, h2⟩ := clamp_bounds (lo := 0) (hi := 63) (n := v.toNat) (by decide)
      exact Host.Outcome.next.inj h ▸ hs.hostAccess rfl rfl ⟨hlow1, hlow2, h2, hwear1, hwear2⟩
    | wearspWrite v =>
      obtain ⟨h1, h2⟩ := clamp_bounds (lo := 1) (hi := 255) (n := v.toNat) (by decide)
      exact Host.Outcome.next.inj h ▸ hs.hostTest rfl rfl ⟨hlow1, hlow2, hsus, h1, h2⟩
    | slotselWrite v => exact Host.Outcome.next.inj h ▸ hs.access fun hl => hs.slotselWrite hl v
    | bdataRead =>
      have hread := hs.bdataRead hl
      obtain rfl := Host.Outcome.next.inj h
      rw [if_neg (by rw [hl]; exact Bool.false_ne_true)]
      exact hread
    | bdataWrite v => exact Host.Outcome.next.inj h ▸ hs.access fun hl => hs.bdataWrite hl v
    | bptrWrite v => exact Host.Outcome.next.inj h ▸ hs.access fun hl => hs.bptrWrite hl v
    | paramWrite b v => exact Host.Outcome.next.inj h ▸ hs.access fun hl => hs.paramWrite hl b v
    | readOnlyByteWrite b v => exact Host.Outcome.next.inj h ▸ hs
    | read => exact (execRead_evolves h).sound hs hl
    | write => exact Host.Outcome.next.inj h ▸ (serve_evolves s _ _ fun _ _ h => h.startWrite).sound hs hl
    | delete => exact Host.Outcome.next.inj h ▸ (serve_evolves s _ _ fun _ _ h => h.startDelete).sound hs hl
    | findNext => exact Host.Outcome.next.inj h ▸ (serve_evolves s _ _ fun _ _ h => h.startFindNext).sound hs hl
    | report => exact Host.Outcome.next.inj h ▸ (serve_evolves s _ _ fun _ _ h => h.startReport).sound hs hl
    | reclaim => exact Host.Outcome.next.inj h ▸ (serve_evolves s _ _ fun _ _ h => h.startReclaim).sound hs hl
    | classSet => exact Host.Outcome.next.inj h ▸ (serve_evolves s _ _ fun _ _ h => h.startClassSet).sound hs hl
    | classFreeze => exact Host.Outcome.next.inj h ▸ (serve_evolves s _ _ fun _ _ h => h.startClassFreeze).sound hs hl
    | format => exact Host.Outcome.next.inj h ▸ (serve_evolves s _ _ fun _ _ h => h.startFormat).sound hs hl
    | badRequest => exact Host.Outcome.next.inj h ▸ (serve_evolves s _ _ fun _ _ h => h.startBad).sound hs hl
    | readRunDone p k => exact (readRunDone_evolves h).sound hs hl
    | granuleProgramDone p flaw => exact granuleProgramDone_sound hs hl h
    | programTimeout p kept => exact programTimeout_sound hs hl h
    | eraseBlankCheck p left => exact eraseBlankCheck_sound hs hl h
    | eraseTimeout p left => exact eraseTimeout_sound hs hl h
    | suspendComplete p => exact (execSuspendComplete_evolves h).sound hs hl
    | select => exact (execSelect_evolves h).sound hs hl

/-- Settles O57: the command at the front keeps the state with the queue's rest sound, and an idle part stays as it is. -/
theorem stepKeepsSound : Obligations.StepKeepsSound := by
  unfold Obligations.StepKeepsSound
  intro s t hs h
  unfold step at h
  split at h
  · exact Host.Outcome.next.inj h ▸ hs
  · next rest _ => exact exec_sound (hs.setPending rest) h

/-- Settles O56: the state after reset is the one that the release of RESET# leaves of an erased part, with a run of mount granted. -/
theorem resetSound : Obligations.ResetSound := by
  have hheld : (State.atReset [] []).Sound := State.atReset_sound ⟨rfl, rfl⟩ []
  exact execChipReset_sound (edge := .released false) (a := .none) (b := .none) hheld rfl

end Sys2Proof.Machine

/-! PROOFS. The queue of commands, the actions and accesses of the host, the part-wide bytes and the window reset with no request ACTIVE
(chapters 6 and 12). -/

namespace Sys2Proof.Machine

set_option Elab.async false

/-! ### The queue of commands, and rows with nothing due -/

/-- Settles O1: the one defining equation of `step` on a queue that is not empty. -/
theorem stepRunsFront : Obligations.StepRunsFront := by
  unfold Obligations.StepRunsFront
  intro c rest s
  rfl

theorem State.takeHead_empty {s : State} (h : s.win.queue = []) : s.takeHead = s := by
  unfold State.takeHead
  split
  · next hq => exact nomatch hq.symm.trans h
  · rfl

/-- A row of the request engine with no request ACTIVE and none queued is not due. -/
theorem State.serve_idle {s : State} (hr : s.eng.req = none) (hq : s.win.queue = []) (ok : Params → Bool)
    (start : Request → State → State) : s.serve ok start = s := by
  unfold State.serve
  dsimp only
  rw [State.takeHead_empty hq, hr]

theorem State.atLookup_idle {s : State} (hr : s.eng.req = none) : s.atLookup = none := by
  unfold State.atLookup
  rw [hr]

/-- Settles O2: with no request ACTIVE and none queued no row is due (`State.serve_idle`). -/
theorem nothingDueIdles : Obligations.NothingDueIdles := by
  unfold Obligations.NothingDueIdles
  refine fun s => ⟨fun hp => ?_, fun hr hq rq => ?_⟩
  · unfold step
    rw [hp]
  · have hserve : ∀ ok start, (.next (s.serve ok start) : Host.Outcome State Fault Refusal) = .next s :=
      fun ok start => congrArg _ (State.serve_idle hr hq ok start)
    unfold requestRow
    split
    · show execRead s = .next s
      unfold execRead
      rw [State.atLookup_idle hr]
      exact hserve _ _
    all_goals exact hserve _ _

/-! ### SUBMIT -/

theorem exec_submit_open {s : State} (hl : s.resetLow = false) : exec .submit s = .next s.submitAction :=
  congrArg Host.Outcome.next (State.access_open hl _)

theorem State.submitAction_eq (s : State) :
    s.submitAction = if s.selected.state = .opened ∧ s.selected.hidden = false then
        if s.eng.store = .halted then s.endSlot s.win.sel .powerFail else s.enqueue.takeHead
      else s.windowFault .actionState :=
  if_congr (s.selectedIn_iff .opened) rfl rfl

/-- An engine that serves a request, or a store state that takes no slots, leaves the queue as it is (R104). -/
theorem State.takeHead_busy {s : State} (h : s.eng.req ≠ none ∨ s.eng.store.takesSlots = false) : s.takeHead = s := by
  unfold State.takeHead
  split
  · next hr hq =>
    rw [if_neg]
    rcases h with h | h
    · exact absurd hr h
    · rw [h]
      exact Bool.false_ne_true
  · rfl

theorem Vector.set_set_same {α : Type} {n : Nat} (v : Vector α n) (i : Fin n) (x y : α) : (v.set i x).set i y = v.set i y := by
  ext k hk
  simp only [Vector.getElem_set]
  split <;> rfl

/-- An engine that is IDLE takes a slot submitted to an empty queue at once (R98, R104). -/
theorem State.enqueue_taken {s : State} (hr : s.eng.req = none) (ht : s.eng.store.takesSlots = true) (hq : s.win.queue = []) :
    s.enqueue.takeHead = { s with
      win := { s.win with slots := s.win.slots.set s.win.sel { s.selected with state := .active } }
      eng := { s.eng with req := some (freshRequest s.win.sel s.selected.params s.eng.store) } } := by
  have hqueue : s.enqueue.win.queue = [s.win.sel] := by
    show s.win.queue ++ [s.win.sel] = _
    rw [hq]
    rfl
  have hslot : s.enqueue.slot s.win.sel = { s.selected with state := .queued } := s.selected_setSelected _
  have hwin : ({ s.enqueue.win with
      slots := s.enqueue.win.slots.set s.win.sel { s.selected with state := .active }, queue := [] } : Window) =
      { s.win with slots := s.win.slots.set s.win.sel { s.selected with state := .active } } := by
    rw [show s.enqueue.win.slots = s.win.slots.set s.win.sel { s.selected with state := .queued } from rfl, Vector.set_set_same, ← hq]
    rfl
  unfold State.takeHead
  rw [show s.enqueue.eng.req = none from hr, hqueue]
  dsimp only
  rw [if_pos (show s.enqueue.eng.store.takesSlots = true from ht), hslot]
  show ({ s.enqueue with win := _, eng := _ } : State) = _
  exact congrArg (fun w => ({ s with
    win := w, eng := { s.eng with req := some (freshRequest s.win.sel s.selected.params s.eng.store) } } : State)) hwin

/-- Settles O4: the five choices of SUBMIT, by the slot's state, the store state and the queue. -/
theorem submitAction : Obligations.SubmitAction := by
  unfold Obligations.SubmitAction
  intro s hl n x queued
  rw [exec_submit_open hl, State.submitAction_eq]
  refine ⟨fun hno => ?_, fun ho hv hh => ?_, fun ho hv hh hbusy => ?_, fun ho hv hr ht hq => ?_⟩
  · exact congrArg Host.Outcome.next (if_neg hno)
  · rw [if_pos (show s.selected.state = .opened ∧ s.selected.hidden = false from ⟨ho, hv⟩), if_pos hh]
    rfl
  · rw [if_pos (show s.selected.state = .opened ∧ s.selected.hidden = false from ⟨ho, hv⟩), if_neg hh, State.takeHead_busy (s := s.enqueue) hbusy]
    rfl
  · have hh : s.eng.store ≠ .halted := by
      rintro hh
      rw [hh] at ht
      exact nomatch ht
    rw [if_pos (show s.selected.state = .opened ∧ s.selected.hidden = false from ⟨ho, hv⟩), if_neg hh, State.enqueue_taken hr ht hq]
    rfl

/-! ### ABORT of a slot that is not ACTIVE, and ACTION_CODE -/

theorem exec_abort_open {s : State} (hl : s.resetLow = false) : exec .abort s = .next s.abortAction :=
  congrArg Host.Outcome.next (State.access_open hl _)

/-- A slot that reads FREE, OPEN or DONE is neither QUEUED nor ACTIVE to the host. -/
theorem State.selectedIn_of_shown {s : State} (h : s.selected.shown = .free ∨ s.selected.shown = .opened ∨ s.selected.shown = .done) :
    s.selectedIn .queued = false ∧ s.selectedIn .active = false := by
  unfold Slot.shown at h
  unfold State.selectedIn
  cases hh : s.selected.hidden
  · rw [hh, if_neg Bool.false_ne_true] at h
    rcases h with h | h | h <;> rw [h] <;> exact ⟨rfl, rfl⟩
  · exact ⟨rfl, rfl⟩

/-- Settles O6: a QUEUED slot leaves the queue by the filter whose places `idxOf_filter` gives; any other is refused. -/
theorem abortOfSlot : Obligations.AbortOfSlot := by
  unfold Obligations.AbortOfSlot
  intro s hl
  rw [exec_abort_open hl]
  unfold State.abortAction
  constructor
  · intro hq hv hnodup hmem
    rw [if_pos ((s.selectedIn_iff .queued).2 ⟨hq, hv⟩)]
    refine ⟨s.abortQueued, rfl, rfl, List.filter_sublist, fun hm => ?_, fun n hn hne => ⟨?_, idxOf_filter hnodup hmem n hn hne⟩⟩
    · exact absurd rfl (bne_iff_ne.1 (List.mem_filter.1 hm).2)
    · exact List.mem_filter.2 ⟨hn, bne_iff_ne.2 hne⟩
  · intro hshown
    obtain ⟨hq, ha⟩ := State.selectedIn_of_shown hshown
    rw [hq, ha, if_neg Bool.false_ne_true, if_neg Bool.false_ne_true, State.windowFault_eq]

theorem actionOf_eq_none {v : Byte} (h : v = 0 ∨ 6 ≤ v.toNat) : actionOf v = none := by
  revert v
  decide

/-- Settles O9: a value from 1 to 5 acts as its action, every other records ACTION_CODE. -/
theorem actionCodeWrite : Obligations.ActionCodeWrite := by
  unfold Obligations.ActionCodeWrite
  refine fun v s => ⟨fun hl hv => ?_, ?_, ?_, ?_, ?_, ?_, ite_self _⟩
  · show execActionCode v s = _
    unfold execActionCode
    rw [State.access_open hl, actionOf_eq_none hv, State.windowFault_eq]
  all_goals
    rintro rfl
    rfl

/-! ### The part-wide bytes -/

/-- Two bytes share a set bit exactly where their conjunction is not 0. -/
theorem and_ne_zero_iff (a b : Byte) : (a &&& b) ≠ 0 ↔ ∃ f : IntFlag, a.getLsbD f.bit = true ∧ b.getLsbD f.bit = true := by
  constructor
  · intro h
    by_contra hno
    refine h (BitVec.eq_of_getLsbD_eq fun i hi => ?_)
    obtain ⟨f, rfl⟩ := IntFlag.exists_bit hi
    rw [BitVec.getLsbD_and, BitVec.ofNat_eq_ofNat, BitVec.getLsbD_zero, Bool.and_eq_false_iff, ← Bool.not_eq_true, ← Bool.not_eq_true]
    by_contra hb
    exact hno ⟨f, by tauto⟩
  · rintro ⟨f, ha, hb⟩ h0
    have hbit : (a &&& b).getLsbD f.bit = true := by rw [BitVec.getLsbD_and, ha, hb]; rfl
    rw [h0, BitVec.ofNat_eq_ofNat, BitVec.getLsbD_zero] at hbit
    exact nomatch hbit

/-- Settles O13: IFLAG and INT# bit by bit. -/
theorem interruptBytes : Obligations.InterruptBytes := by
  unfold Obligations.InterruptBytes
  intro v s hl
  refine ⟨⟨_, congrArg Host.Outcome.next (State.access_open hl _), fun f => ?_, rfl⟩,
    congrArg Host.Outcome.next (State.access_open hl _), ?_⟩
  · show (s.win.iflag &&& ~~~v).getLsbD f.bit = (s.win.iflag.getLsbD f.bit && !v.getLsbD f.bit)
    rw [BitVec.getLsbD_and, BitVec.getLsbD_not, decide_eq_true f.bit_lt, Bool.true_and]
  · exact bne_iff_ne.trans (and_ne_zero_iff _ _)

/-- Settles O14: `clamp` is the nearer end (`clamp_eq`), and a write of LOWMK or WEARSP tests the start conditions. -/
theorem clampedAndReadOnlyWrites : Obligations.ClampedAndReadOnlyWrites := by
  unfold Obligations.ClampedAndReadOnlyWrites
  intro v s hl
  have hv := v.isLt
  refine ⟨⟨_, congrArg Host.Outcome.next (State.access_open hl _), ?_⟩, ?_, ⟨_, congrArg Host.Outcome.next (State.access_open hl _), ?_⟩,
    fun _ => rfl⟩
  · rw [clamp_eq (by decide)]
    exact State.startTest_becomes _
  · show Host.Outcome.next (s.access _) = _
    rw [State.access_open hl, clamp_eq (by decide), Nat.zero_max]
  · rw [clamp_eq (by decide), Nat.min_eq_right (by omega)]
    have hlatch : (s.rcl.noVictim && decide (s.eng.store = .halted)) = if s.eng.store = .halted then s.rcl.noVictim else false := by
      split
      · next h => rw [decide_eq_true h, Bool.and_true]
      · next h => rw [decide_eq_false h, Bool.and_false]
    rw [← hlatch]
    exact State.startTest_becomes _

/-- Settles O15, by the range of the value. -/
theorem slotSelectWrite : Obligations.SlotSelectWrite := by
  unfold Obligations.SlotSelectWrite
  intro v s hl
  constructor
  · intro n hn
    show Host.Outcome.next (s.access _) = _
    rw [State.access_open hl, dif_pos (hn ▸ n.isLt)]
    exact congrArg (fun m => Host.Outcome.next ({ s with win := { s.win with sel := m } } : State)) (Fin.ext hn)
  · intro hv
    show Host.Outcome.next (s.access _) = _
    rw [State.access_open hl, dif_neg (by omega), State.windowFault_eq]

/-! ### The bytes of the selected slot -/

theorem execBdataRead_open {s : State} (hl : s.resetLow = false) (ho : s.selected.bufferOpen = true) :
    execBdataRead s = .next
      ((s.setSelected { s.selected with ptr := s.selected.ptr + 1 }).drive (s.selected.bufferByte s.selected.ptr.toNat)) := by
  unfold execBdataRead
  dsimp only
  rw [hl, if_neg Bool.false_ne_true, if_pos ho]

theorem execBdataRead_closed {s : State} (hl : s.resetLow = false) (ho : s.selected.bufferOpen = false) :
    execBdataRead s = .next ((s.windowFault .bufferState).drive 0) := by
  unfold execBdataRead
  dsimp only
  rw [hl, if_neg Bool.false_ne_true, ho, if_neg Bool.false_ne_true]

theorem execBdataWrite_open {s : State} (hl : s.resetLow = false) (ho : s.selected.bufferOpen = true) (v : Byte) :
    execBdataWrite v s = .next (s.setSelected { s.selected with
      buffer := cellSet 0 s.selected.buffer s.selected.ptr.toNat v, ptr := s.selected.ptr + 1 }) := by
  unfold execBdataWrite
  dsimp only
  rw [State.access_open hl, if_pos ho]

theorem execBptrWrite_open {s : State} (hl : s.resetLow = false) (ho : s.selected.bufferOpen = true) (v : Byte) :
    execBptrWrite v s = .next (s.setSelected { s.selected with ptr := v }) := by
  unfold execBptrWrite
  rw [State.access_open hl, if_pos ho]

/-- A buffer byte stored reads back, and every other position holds what it held. -/
theorem cellGet_cellSet (m : List Host.Cell) (a i : Nat) (v : Byte) :
    cellGet 0 (cellSet 0 m a v) i = if i = a then v else cellGet 0 m i := by
  split
  · next h => rw [h, cellGet_cellSet_same]
  · next h => exact cellGet_cellSet_ne 0 m v h

theorem State.slot_setSelected_ne (s : State) {n : SlotNo} (h : n ≠ s.win.sel) (x : Slot) : (s.setSelected x).slot n = s.slot n :=
  s.slot_setSlot_ne h.symm x

/-- Settles O16: whether the buffer is the host's to use decides each access. -/
theorem bufferAccess : Obligations.BufferAccess := by
  unfold Obligations.BufferAccess
  intro v s hl
  constructor
  · intro hv hst
    have ho : s.selected.bufferOpen = true := (Slot.bufferOpen_iff _).2 ⟨hv, hst⟩
    refine ⟨execBdataRead_open hl ho, ⟨_, execBdataWrite_open hl ho v, ?_, fun i => ?_, rfl, fun n hn => s.slot_setSelected_ne hn _⟩,
      execBptrWrite_open hl ho v⟩
    · rw [State.selected_setSelected]
    · rw [State.selected_setSelected]
      exact cellGet_cellSet ..
  · intro hst
    have ho : s.selected.bufferOpen = false := by
      rw [← Bool.not_eq_true, Slot.bufferOpen_iff]
      rintro ⟨hv, hopen⟩
      rcases hst with h | h | h <;> simp_all
    refine ⟨?_, ?_, ?_⟩
    · exact execBdataRead_closed hl ho
    · show execBdataWrite v s = _
      unfold execBdataWrite
      dsimp only
      rw [State.access_open hl, ho, if_neg Bool.false_ne_true, State.windowFault_eq]
    · show execBptrWrite v s = _
      unfold execBptrWrite
      rw [State.access_open hl, ho, if_neg Bool.false_ne_true, State.windowFault_eq]

theorem Params.get_put (p : Params) (b c : ParamByte) (v : Byte) : (p.put b v).get c = if c = b then v else p.get c := by
  cases b <;> cases c <;> rfl

/-- Settles O18: in OPEN the byte is stored (`Params.get_put`), otherwise PARAM_STATE is recorded. -/
theorem parameterWrite : Obligations.ParameterWrite := by
  unfold Obligations.ParameterWrite
  intro b v s hl
  have hexec : exec (.paramWrite b v) s = .next (if s.selected.state = .opened ∧ s.selected.hidden = false then
      s.setSelected { s.selected with params := s.selected.params.put b v } else s.windowFault .paramState) := by
    show Host.Outcome.next (s.access _) = _
    rw [State.access_open hl]
    exact congrArg _ (if_congr (s.selectedIn_iff .opened) rfl rfl)
  rw [hexec]
  constructor
  · intro ho hv
    rw [if_pos ⟨ho, hv⟩]
    refine ⟨_, rfl, ?_, fun c => ?_, rfl, fun n hn => s.slot_setSelected_ne hn _⟩
    · rw [State.selected_setSelected]
    · rw [State.selected_setSelected]
      exact Params.get_put ..
  · intro hno
    rw [if_neg hno, State.windowFault_eq]

/-- Settles O54: the 32 bytes after a chip reset one by one, and 0 while RESET# is held low. -/
theorem resetWindowBytes : Obligations.ResetWindowBytes := by
  unfold Obligations.ResetWindowBytes
  refine fun offset => ⟨?_, fun s hl => if_pos hl⟩
  revert offset
  decide +kernel

end Sys2Proof.Machine

/-! PROOFS. The end of a request with whatever it holds, aborts and the window reset with a request ACTIVE (chapters 6 and 7). -/

namespace Sys2Proof.Machine

set_option Elab.async false

/-! ### The end of a request that may hold a key, wait on a mark or be hidden -/

/-- The index with the hold released and the waiter dropped. -/
def KeyIndex.freed (x : KeyIndex) : KeyIndex := { x with hold := none, waiter := none }

/-- The window unit after the ending step. -/
def State.endWin (s : State) (r : Request) (code : ResultCode) (f : ResultFields) : Window :=
  let x := s.slot r.slot
  if x.hidden then { s.win with slots := s.win.slots.set r.slot { x with state := .free, hidden := false, ptr := 0 } }
  else { s.win with
    slots := s.win.slots.set r.slot (x.finish code f r.flags), iflag := s.win.iflag ||| (IntFlag.slotDone r.slot).mask }

/-- The state after the ending step, before the signals that it raises are delivered. -/
def State.ending (s : State) (r : Request) (code : ResultCode) (f : ResultFields) : State :=
  { s with win := s.endWin r code f, eng := { s.eng with req := none }, idx := s.idx.freed }

/-- The signals of the ending step. -/
def State.endSignals (s : State) : List Signal := if s.idx.hold = none then [.take] else [.holdReleased, .take]

theorem State.endRequest_signals (s : State) (r : Request) (code : ResultCode) (f : ResultFields) :
    s.endRequest r code f = { s.ending r code f with agenda := s.agenda ++ s.endSignals } := by
  unfold State.endRequest State.ending State.endWin State.releaseHold State.endSignals KeyIndex.freed
  dsimp only
  cases hv : (s.slot r.slot).hidden <;> cases hh : s.idx.hold <;>
    simp [hh, State.dropWaiter, State.clearReq, State.setSlot, State.raise, State.signal, Window.raise]

/-- The taking of the head does not look at the agenda. -/
theorem State.takeHead_setAgenda (s : State) (l : List Signal) : { s with agenda := l }.takeHead = { s.takeHead with agenda := l } := by
  unfold State.takeHead
  dsimp only
  split
  · split <;> rfl
  · rfl

theorem State.reclaimHoldReleased_other {s : State} (h : s.rcl.act ≠ .heldWait) : s.reclaimHoldReleased = s := by
  unfold State.reclaimHoldReleased
  split
  · next ha _ => exact absurd ha h
  · rfl

/-- The signals of the ending step delivered, with `l` behind them. -/
theorem State.endSignals_drain {s u : State} {l : List Signal} (hu : u.agenda = s.endSignals ++ l)
    (hact : s.idx.hold ≠ none → u.rcl.act ≠ .heldWait) (k : Nat) :
    ∃ j, k ≤ j ∧ u.drain (k + 2) = { u.takeHead with agenda := l }.drain j := by
  have htake : ∀ (v : State) (j : Nat), v.agenda = .take :: l → v.drain (j + 1) = { v.takeHead with agenda := l }.drain j := by
    intro v j hv
    rw [State.drain_cons hv, State.deliver, State.takeHead_setAgenda]
  unfold State.endSignals at hu
  by_cases hh : s.idx.hold = none
  · rw [if_pos hh] at hu
    exact ⟨k + 1, Nat.le_succ k, htake u (k + 1) hu⟩
  · rw [if_neg hh] at hu
    refine ⟨k, Nat.le_refl k, ?_⟩
    rw [State.drain_cons (l := .take :: l) hu, State.deliver, State.reclaimHoldReleased_other (by exact hact hh), htake _ k rfl,
      State.takeHead_setAgenda]

/-- The ending step with its signals delivered. -/
theorem State.endRequest_drain {s : State} (r : Request) (code : ResultCode) (f : ResultFields) (ha : s.agenda = [])
    (hact : s.idx.hold ≠ none → s.rcl.act ≠ .heldWait) (k : Nat) :
    (s.endRequest r code f).drain (k + 2) = (s.ending r code f).takeHead := by
  have hu : (s.endRequest r code f).agenda = s.endSignals ++ [] := by
    rw [State.endRequest_signals, ha, List.append_nil]
    rfl
  obtain ⟨j, -, hj⟩ := State.endSignals_drain hu (by rw [State.endRequest_signals]; exact fun h => hact h) k
  rw [hj, State.drain_nil rfl, State.endRequest_signals, State.takeHead_setAgenda]
  show { (s.ending r code f).takeHead with agenda := [] } = _
  rw [← ha, show s.agenda = (s.ending r code f).agenda from rfl, ← State.takeHead_agenda]

/-- The engine after the taking of the head: no request, or one at its taking. -/
theorem State.takeHead_fresh {s : State} (h : s.eng.req = none) : ∀ r, s.takeHead.eng.req = some r → r.phase = .taken := by
  intro r hr
  unfold State.takeHead at hr
  split at hr
  · split at hr
    · cases hr
      rfl
    · exact nomatch h.symm.trans hr
  · exact nomatch h.symm.trans hr

/-- The end of an opening concerns neither a request at its taking nor a reclaim engine that waits for no room. -/
theorem State.deliver_openingEnded {s : State} (hr : ∀ r, s.eng.req = some r → r.phase = .taken) (ha : s.rcl.act ≠ .roomWait) :
    s.deliver .openingEnded = s := by
  have hroom : s.requestRoom = s := by
    unfold State.requestRoom
    split
    · rfl
    · next r hs => rw [if_neg (by rw [hr r hs]; exact fun h => nomatch h)]
  rw [State.deliver, hroom]
  unfold State.reclaimRoom
  split
  · next h _ _ => exact absurd h ha
  · rfl

theorem State.takeHead_rcl (s : State) : s.takeHead.rcl = s.rcl := by
  unfold State.takeHead
  split
  · split <;> rfl
  · rfl

/-- The ending step of a write behind whose opening nothing waits. -/
theorem State.endRequest_openingEnded {s : State} (r : Request) (code : ResultCode) (f : ResultFields) (ha : s.agenda = [])
    (hact : s.rcl.act ≠ .heldWait) (hroom : s.rcl.act ≠ .roomWait) (k : Nat) :
    ((s.endRequest r code f).signal .openingEnded).drain (k + 3) = (s.ending r code f).takeHead := by
  have hu : ((s.endRequest r code f).signal .openingEnded).agenda = s.endSignals ++ [.openingEnded] := by
    rw [State.endRequest_signals, ha]
    rfl
  obtain ⟨j, hkj, hj⟩ := State.endSignals_drain hu
    (by rw [State.endRequest_signals]; exact fun _ => hact) (k + 1)
  obtain ⟨i, rfl⟩ := Nat.exists_eq_add_of_le' hkj
  have hto : ({ ((s.endRequest r code f).signal .openingEnded).takeHead with agenda := [.openingEnded] } : State) =
      { (s.ending r code f).takeHead with agenda := [.openingEnded] } := by
    rw [State.endRequest_signals]
    show ({ ({ s.ending r code f with agenda := _ } : State).takeHead with agenda := _ } : State) = _
    rw [State.takeHead_setAgenda]
  rw [hj, hto, show i + (k + 1) = (i + k) + 1 from rfl, State.drain_cons (x := .openingEnded) (l := []) rfl]
  have hself : ({ (s.ending r code f).takeHead with agenda := [] } : State) = (s.ending r code f).takeHead := by
    rw [← ha, show s.agenda = (s.ending r code f).agenda from rfl, ← State.takeHead_agenda]
  show (State.deliver { (s.ending r code f).takeHead with agenda := [] } .openingEnded).drain (i + k) = _
  rw [hself, State.deliver_openingEnded (State.takeHead_fresh rfl)
    (by rw [State.takeHead_rcl]; exact hroom),
    State.drain_nil (by rw [State.takeHead_agenda]; exact ha)]

/-- The request of a visible slot has ended and the engine has gone on. -/
theorem State.ending_ended {s : State} (r : Request) (code : ResultCode) (f : ResultFields) (ha : s.agenda = [])
    (hv : (s.slot r.slot).hidden = false) (hn : r.slot ∉ s.win.queue) :
    ({ s with idx := s.idx.freed } : State).Ended (s.ending r code f).takeHead.startTest r.slot code f r.flags := by
  have hend := State.endRequest_drain_ended (s := { s with idx := s.idx.freed }) (r := r) (code := code) (f := f) ha rfl rfl hv hn 1
  rwa [State.endRequest_drain (s := { s with idx := s.idx.freed }) r code f ha (fun h => absurd rfl h) 0] at hend

/-- Settling after the ending step of a visible request, whatever it holds and waits on. -/
theorem State.endRequest_ended_freed {s : State} (r : Request) (code : ResultCode) (f : ResultFields) (ha : s.agenda = [])
    (hact : s.idx.hold ≠ none → s.rcl.act ≠ .heldWait) (hv : (s.slot r.slot).hidden = false) (hn : r.slot ∉ s.win.queue) :
    ({ s with idx := s.idx.freed } : State).Ended (s.endRequest r code f).settle r.slot code f r.flags := by
  rw [State.settle, settleFuel, State.endRequest_drain r code f ha hact]
  exact State.ending_ended r code f ha hv hn

end Sys2Proof.Machine

/-! PROOFS. Aborts and the window reset (sections 6.3, 6.8 and 7.1). -/

namespace Sys2Proof.Machine

set_option Elab.async false

/-! ### Aborts past the point of no return -/

theorem exec_abort_active {s : State} (hl : s.resetLow = false) (ha : s.selected.state = .active) (hv : s.selected.hidden = false) :
    exec .abort s = .next s.abortRequest.settle := execAbort_active hl ha hv

/-- What is common to an abort that the request engine hears of: the store is not HALTED and no abort is taken yet. -/
theorem State.abortRequest_heard {s : State} {r : Request} (hr : s.eng.req = some r) (hst : s.eng.store ≠ .halted)
    (hab : r.aborting = false) :
    s.abortRequest = if r.flags.abortLate then s
      else if r.tooLate s then s.setReq { r with flags := { r.flags with abortLate := true } } else r.takeAbort s := by
  unfold State.abortRequest
  rw [hr]
  dsimp only
  by_cases hf : r.flags.abortLate = true
  · rw [if_pos (.inr (.inl hf)), if_pos hf]
  · rw [if_neg hf, if_neg]
    rintro (h | h | h)
    · exact hst h
    · exact hf h
    · exact nomatch hab.symm.trans h

theorem State.setReq_self {s : State} {r : Request} (hr : s.eng.req = some r) : s.setReq r = s := by
  unfold State.setReq
  rw [← hr]

theorem State.setReq_settle {s : State} (ha : s.agenda = []) (r : Request) : (s.setReq r).settle = (s.setReq r).startTest :=
  State.settle_nil ha

/-- An abort past the point of no return sets ABORT_LATE and does nothing else; where it is set already, nothing. -/
theorem State.abortRequest_late {s : State} {r : Request} (hr : s.eng.req = some r) (hst : s.eng.store ≠ .halted)
    (hab : r.aborting = false) (hlate : r.tooLate s = true) :
    s.abortRequest = s.setReq { r with flags := { r.flags with abortLate := true } } := by
  rw [State.abortRequest_heard hr hst hab, if_pos hlate]
  split
  · next hf =>
    have hsame : ({ r with flags := { r.flags with abortLate := true } } : Request) = r := by rw [← hf]
    rw [hsame, State.setReq_self hr]
  · rfl

theorem Plane.waits_request (p : Plane) : p.waits .request = p.waitReq.isSome := rfl

/-- The phases of the statements of R115 are those at or past the point of no return. -/
theorem Request.tooLate_of {r : Request} {s : State}
    (h : (r.phase = .taken ∧ (r.params.rq = 0x04 ∨ r.params.rq = 0x05)) ∨
      (r.phase = .commit ∧ s.pl0.waitReq = none ∧ s.pl1.waitReq = none) ∨
      r.phase = .retireOld ∨ r.phase = .retireNew ∨ r.phase = .retire ∨
      (∃ n, r.phase = .fmtReadMark n ∨ r.phase = .fmtMark n ∨ r.phase = .fmtErase n ∨ r.phase = .fmtHeader n ∨
        r.phase = .fmtReadRetire n ∨ r.phase = .fmtRetire n)) : r.tooLate s = true := by
  unfold Request.tooLate
  rcases h with ⟨hp, hq⟩ | ⟨hp, h0, h1⟩ | hp | hp | hp | ⟨n, hp | hp | hp | hp | hp | hp⟩ <;> rw [hp]
  · rcases hq with hq | hq <;> rw [hq] <;> rfl
  · show (!(s.pl0.waits .request || s.pl1.waits .request)) = true
    rw [Plane.waits_request, Plane.waits_request, h0, h1]
    rfl

/-- Settles O7: the abort sets the flag of `abortRequest_late`, and nothing is left to deliver. -/
theorem abortTooLate : Obligations.AbortTooLate := by
  unfold Obligations.AbortTooLate
  intro s r hl hact hv hr ha hst hab hphase
  refine ⟨_, exec_abort_active hl hact hv, ?_⟩
  rw [State.abortRequest_late hr hst hab (Request.tooLate_of hphase), State.setReq_settle ha]
  exact State.startTest_becomes _

/-! ### Aborts taken -/

/-- The state of a request that ends with no run in service: its waiting claim withdrawn. -/
theorem State.withdraw_request (s : State) :
    s.withdraw .request = { s with pl0 := { s.pl0 with waitReq := none }, pl1 := { s.pl1 with waitReq := none } } := rfl

theorem State.abortRequest_taken {s : State} {r : Request} (hr : s.eng.req = some r) (hst : s.eng.store ≠ .halted)
    (hab : r.aborting = false) (hf : r.flags.abortLate = false) (hlate : r.tooLate s = false) : s.abortRequest = r.takeAbort s := by
  rw [State.abortRequest_heard hr hst hab, hf, hlate, if_neg Bool.false_ne_true, if_neg Bool.false_ne_true]

/-- An abort of a request without a run in service, in a phase that needs nothing undone but the claim, the hold and the waiter. -/
theorem Request.takeAbort_plain {r : Request} {s : State} (hrun : s.runInService .request = false)
    (hd : r.phase ≠ .descriptor) (ho : ∀ n q, r.phase ≠ .opening n q) (hs : r.phase ≠ .stopReclaim) :
    r.takeAbort s = (s.withdraw .request).endRequest r .aborted ResultFields.zero := by
  unfold Request.takeAbort
  rw [hrun, if_neg Bool.false_ne_true]
  dsimp only
  split
  · next h _ => exact absurd h hd
  · next h => exact absurd h (ho _ _)
  · next h => exact absurd h hs
  · rfl

/-- The abort of a write whose opening waits: the end of the opening, told behind the ending step, concerns nobody. -/
theorem Request.takeAbort_opening {r : Request} {s : State} {n : SectorNo} {q : Nat} (hrun : s.runInService .request = false)
    (hp : r.phase = .opening n q) :
    r.takeAbort s = ((s.withdraw .request).endRequest r .aborted ResultFields.zero).signal .openingEnded := by
  unfold Request.takeAbort
  rw [hrun, if_neg Bool.false_ne_true, hp]
  rfl

theorem Request.takeAbort_descriptor {r : Request} {s : State} {p : Place} (hrun : s.runInService .request = false)
    (hp : r.phase = .descriptor) (hj : r.job.place = some p) :
    r.takeAbort s = ((s.withdraw .request).givePlaceBack p (footprint r.job.length)).endRequest r .aborted ResultFields.zero := by
  unfold Request.takeAbort
  rw [hrun, if_neg Bool.false_ne_true, hp, hj]
  rfl

theorem Request.takeAbort_stopReclaim {r : Request} {s : State} (hrun : s.runInService .request = false)
    (hp : r.phase = .stopReclaim) :
    r.takeAbort s = (s.withdraw .request).withdrawStop.endRequest r .aborted ResultFields.zero := by
  unfold Request.takeAbort
  rw [hrun, if_neg Bool.false_ne_true, hp]
  rfl

/-- Giving a place back raises no stale total and leaves the sector's state, so that only the entry changes (R63). -/
theorem SectorEntry.giveBack_state (e : SectorEntry) (o fp : Nat) : (e.giveBack o fp).state = e.state := by
  unfold SectorEntry.giveBack
  split <;> rfl

theorem clearsLatch_same {e x : SectorEntry} (hs : x.state = e.state) (hu : x.suspect = e.suspect)
    (hb : x.staleBytes ≤ e.staleBytes ∨ e.state ≠ .full) : clearsLatch e x = false := by
  unfold clearsLatch
  rw [hs, hu]
  rcases hb with hb | hb
  · simp [Nat.not_lt.2 hb]
  · simp [hb]

theorem clearsLatch_giveBack (e : SectorEntry) (o fp : Nat) : clearsLatch e (e.giveBack o fp) = false := by
  refine clearsLatch_same (e.giveBack_state o fp) ?_ (.inl ?_) <;> unfold SectorEntry.giveBack <;> split
  · rfl
  · rfl
  · exact Nat.sub_le _ _
  · exact Nat.le_refl _

theorem State.givePlaceBack_eq (s : State) (p : Place) (fp : Nat) :
    s.givePlaceBack p fp = s.putSector p.sector ((s.sector p.sector).giveBack p.offset fp) :=
  State.setSector_same (SectorEntry.giveBack_state ..) (clearsLatch_giveBack ..)

theorem SectorEntry.giveBack_eq (e : SectorEntry) (o fp : Nat) :
    e.giveBack o fp = if (e.state = .hostOpen ∨ e.state = .moveOpen) ∧ e.append = o + fp then
      { e with append := o, staleBytes := e.staleBytes - fp } else e := by
  unfold SectorEntry.giveBack
  exact if_congr (by simp [SectorEntry.isOpen]) rfl rfl

/-- A run in service of the request engine on one plane alone: the stop asked for reaches that plane alone (R23, R26). -/
theorem State.askStop_one {s : State} {p : PlaneId} {u : Run} (hu : (s.plane p).run = some u) (hw : u.claim.who = .request)
    (ho : ∀ q v, q ≠ p → (s.plane q).run = some v → v.claim.who ≠ .request) :
    s.askStop .request = s.setPlane p { s.plane p with run := some { u with stop := true } } := by
  have hthis : (s.plane p).askStop .request = { s.plane p with run := some { u with stop := true } } := by
    unfold Plane.askStop
    rw [hu]
    exact if_pos hw
  have hother : ∀ q, q ≠ p → (s.plane q).askStop .request = s.plane q := by
    intro q hq
    unfold Plane.askStop
    split
    · next v hv => rw [if_neg (ho q v hq hv)]
    · rfl
  rw [← hthis]
  unfold State.askStop
  cases p with
  | p0 =>
    rw [show s.pl1.askStop .request = s.pl1 from hother .p1 (fun h => nomatch h)]
    rfl
  | p1 =>
    rw [show s.pl0.askStop .request = s.pl0 from hother .p0 (fun h => nomatch h)]
    rfl

theorem State.runInService_of {s : State} {p : PlaneId} {u : Run} (hu : (s.plane p).run = some u) (hw : u.claim.who = .request) :
    s.runInService .request = true := by
  have hp : (s.plane p).serves .request = true := by
    unfold Plane.serves
    rw [hu]
    exact beq_iff_eq.2 hw
  unfold State.runInService
  cases p with
  | p0 => rw [show s.pl0.serves .request = true from hp, Bool.true_or]
  | p1 => rw [show s.pl1.serves .request = true from hp, Bool.or_true]

/-- The phases in which the statement of R115 has an abort end the request with nothing undone but its claim, hold and waiter. -/
def Request.EndsPlain (r : Request) (s : State) : Prop :=
  r.phase = .taken ∧ r.params.rq ≠ 0x04 ∧ r.params.rq ≠ 0x05 ∨ r.phase = .transfer ∨ r.phase = .lookup ∨ r.phase = .waitSpace ∨
    r.phase = .waitMove ∨ r.phase = .placeWait ∨ (∃ n q, r.phase = .opening n q) ∨ r.phase = .payload ∨ r.phase = .cycle ∨
    r.phase = .commit ∧ (s.pl0.waitReq ≠ none ∨ s.pl1.waitReq ≠ none)

theorem Request.EndsPlain.inTime {r : Request} {s : State} (h : r.EndsPlain s) : r.tooLate s = false := by
  unfold Request.tooLate
  rcases h with ⟨hp, h4, h5⟩ | hp | hp | hp | hp | hp | ⟨n, q, hp⟩ | hp | hp | ⟨hp, hw⟩ <;> rw [hp]
  · show (r.params.rq == 0x04 || r.params.rq == 0x05) = false
    rw [beq_eq_false_iff_ne.2 h4, beq_eq_false_iff_ne.2 h5]
    rfl
  · show (!(s.pl0.waits .request || s.pl1.waits .request)) = false
    rw [Plane.waits_request, Plane.waits_request, Bool.not_eq_false', Bool.or_eq_true, Option.isSome_iff_ne_none,
      Option.isSome_iff_ne_none]
    exact hw

/-- Of those phases an opening alone tells of its own end. -/
theorem Request.EndsPlain.takeAbort_settle {r : Request} {s : State} (h : r.EndsPlain s) (ha : s.agenda = [])
    (hrun : s.runInService .request = false) (hheld : s.rcl.act ≠ .heldWait) (hroom : s.rcl.act ≠ .roomWait) :
    (r.takeAbort s).settle = ((s.withdraw .request).ending r .aborted ResultFields.zero).takeHead.startTest := by
  rw [State.settle, settleFuel]
  by_cases ho : ∃ n q, r.phase = .opening n q
  · obtain ⟨n, q, ho⟩ := ho
    rw [Request.takeAbort_opening hrun ho, State.endRequest_openingEnded (s := s.withdraw .request) r _ _ ha hheld hroom]
  · rw [Request.takeAbort_plain hrun _ (fun n q hp => ho ⟨n, q, hp⟩),
      State.endRequest_drain (s := s.withdraw .request) r _ _ ha (fun _ => hheld)]
    all_goals
      intro hp
      unfold Request.EndsPlain at h
      simp [hp] at h

/-- Settles O8: without a run in service the request ends by the ending step, what it had in hand undone first; with one it waits for the
answer of the run asked to stop. -/
theorem abortTaken : Obligations.AbortTaken := by
  unfold Obligations.AbortTaken
  intro s r hl hact hv hslot hr ha hst hab hf
  have hvis : (s.slot r.slot).hidden = false := by
    rw [hslot]
    exact hv
  constructor
  · intro hrun hn hheld hroom dropped
    refine ⟨fun hphase => ?_, fun n o hp hj => ?_, fun hp => ?_⟩
    · have hends : r.EndsPlain s := hphase
      refine ⟨_, exec_abort_active hl hact hv, ?_⟩
      rw [State.abortRequest_taken hr hst hab hf hends.inTime, hends.takeAbort_settle ha hrun hheld hroom]
      exact State.ending_ended (s := s.withdraw .request) r _ _ ha hvis hn
    · refine ⟨_, exec_abort_active hl hact hv, ?_⟩
      rw [State.abortRequest_taken hr hst hab hf (by unfold Request.tooLate; rw [hp]), Request.takeAbort_descriptor hrun hp hj,
        State.givePlaceBack_eq, SectorEntry.giveBack_eq]
      exact State.endRequest_ended_freed (s := (s.withdraw .request).putSector n _) r _ _ ha (fun _ => hheld) hvis hn
    · refine ⟨_, exec_abort_active hl hact hv, ?_⟩
      rw [State.abortRequest_taken hr hst hab hf (by unfold Request.tooLate; rw [hp]), Request.takeAbort_stopReclaim hrun hp]
      exact State.endRequest_ended_freed (s := (s.withdraw .request).withdrawStop) r _ _ ha (fun _ => hheld) hvis hn
  · intro p u hphase hu hw ho
    have hlate : r.tooLate s = false := by
      unfold Request.tooLate
      rcases hphase with hp | ⟨n, q, hp⟩ | hp | hp <;> rw [hp]
    refine ⟨_, exec_abort_active hl hact hv, ?_⟩
    rw [State.abortRequest_taken hr hst hab hf hlate]
    unfold Request.takeAbort
    rw [State.runInService_of hu hw, if_pos rfl, State.askStop_one hu hw ho, State.settle_nil]
    · exact State.startTest_becomes _
    · cases p <;> exact ha

/-! ### The window reset -/

theorem exec_windowReset_open {s : State} (hl : s.resetLow = false) (low : BitVec 7) :
    exec (.windowReset low) s = .next ({ s with win := s.win.windowReset low } : State).abortRequest.settle :=
  congrArg Host.Outcome.next (State.access_open hl _)

theorem Slot.windowReset_idle {x : Slot} (h : x.state ≠ .active) :
    x.windowReset = { x with state := .free, ptr := x.windowReset.ptr } ∧ (x.state ≠ .free → x.windowReset.ptr = 0) := by
  unfold Slot.windowReset
  split
  · next ha => exact absurd ha h
  · next hf => exact ⟨by rw [← hf], fun hne => absurd hf hne⟩
  · exact ⟨rfl, fun _ => rfl⟩

theorem Slot.windowReset_active {x : Slot} (h : x.state = .active) : x.windowReset = { x with hidden := true } := by
  unfold Slot.windowReset
  split
  · rfl
  · next hf => exact nomatch h.symm.trans hf
  · next ha _ => exact absurd h ha

/-- Settles O10: with no request ACTIVE the window unit alone is reset, and the start conditions are tested. -/
theorem windowResetIdle : Obligations.WindowResetIdle := by
  unfold Obligations.WindowResetIdle
  intro low s hl hr ha hslots
  have habort : ({ s with win := s.win.windowReset low } : State).abortRequest = { s with win := s.win.windowReset low } := by
    unfold State.abortRequest
    rw [show ({ s with win := s.win.windowReset low } : State).eng.req = none from hr]
  refine ⟨_, exec_windowReset_open hl low, ?_⟩
  rw [habort, State.settle_nil (s := { s with win := s.win.windowReset low }) ha]
  obtain ⟨x, hx, hstart⟩ := State.startTest_eq { s with win := s.win.windowReset low }
  have hslot : ∀ n, (({ s with win := s.win.windowReset low } : State).startTest).slot n = (s.slot n).windowReset := fun n => by
    rw [State.startTest_slot, State.windowReset_slot]
  refine ⟨fun n => ?_, ?_⟩
  · rw [hslot]
    exact Slot.windowReset_idle (hslots n)
  · rw [hx]
    exact ⟨rfl, rfl, rfl, rfl, rfl, rfl, rfl, rfl, rfl, rfl, hstart, rfl⟩

/-- Settles O11: the slot of the ACTIVE request is hidden, and the abort that it receives comes too late (`abortRequest_late`). -/
theorem windowResetHides : Obligations.WindowResetHides := by
  unfold Obligations.WindowResetHides
  intro low s r hl hr ha hact hst hab hphase
  refine ⟨_, exec_windowReset_open hl low, ?_⟩
  rw [State.abortRequest_late (s := { s with win := s.win.windowReset low }) hr hst hab (Request.tooLate_of hphase),
    State.setReq_settle (s := { s with win := s.win.windowReset low }) ha]
  have hslot : ∀ n, ((({ s with win := s.win.windowReset low } : State).setReq
      { r with flags := { r.flags with abortLate := true } }).startTest).slot n = (s.slot n).windowReset := fun n => by
    rw [State.startTest_slot]
    exact State.windowReset_slot ..
  have hhidden : (s.slot r.slot).windowReset = { s.slot r.slot with hidden := true } :=
    Slot.windowReset_active hact
  refine ⟨(hslot _).trans hhidden, ?_, ?_, fun n hn => ?_, ?_⟩
  · rw [hslot, hhidden]
    rfl
  · rw [State.startTest_eng]
    rfl
  · rw [hslot, (Slot.windowReset_idle hn).1]
  · obtain ⟨x, hx, -⟩ := State.startTest_eq (({ s with win := s.win.windowReset low } : State).setReq
      { r with flags := { r.flags with abortLate := true } })
    rw [hx]
    exact ⟨rfl, rfl, rfl, rfl, rfl, rfl, rfl⟩

end Sys2Proof.Machine

/-! PROOFS. The reclaim mode and its start conditions, and the round trip through the buffer (sections 6.5 and 9.2). -/

namespace Sys2Proof.Machine

set_option Elab.async false

/-! ### The table of sectors, searched -/

theorem State.mem_sectors {s : State} {e : SectorEntry} : e ∈ s.space.sectors.toList ↔ ∃ n, s.sector n = e := by
  rw [Vector.mem_toList_iff, Vector.mem_iff_getElem]
  exact ⟨fun ⟨i, hi, he⟩ => ⟨⟨i, hi⟩, he⟩, fun ⟨n, he⟩ => ⟨n.val, n.isLt, he⟩⟩

theorem State.countState_pos_iff {s : State} {st : SectorState} : s.space.countState st ≠ 0 ↔ ∃ n, (s.sector n).state = st := by
  rw [← Nat.pos_iff_ne_zero, Space.countState, List.countP_pos_iff]
  constructor
  · rintro ⟨e, he, hst⟩
    obtain ⟨n, rfl⟩ := State.mem_sectors.1 he
    exact ⟨n, beq_iff_eq.1 hst⟩
  · rintro ⟨n, hn⟩
    exact ⟨_, State.mem_sectors.2 ⟨n, rfl⟩, beq_iff_eq.2 hn⟩

/-- What `lowestErase` finds: a least erase count among the entries that qualify, or none where none does. -/
theorem lowestErase_spec (p : SectorEntry → Bool) : ∀ l : List SectorEntry,
    match lowestErase p l with
    | none => ∀ e ∈ l, p e = false
    | some a => (∃ e ∈ l, p e = true ∧ e.eraseCount = a) ∧ ∀ e ∈ l, p e = true → a ≤ e.eraseCount
  | [] => fun _ h => absurd h List.not_mem_nil
  | e :: l => by
    have ih := lowestErase_spec p l
    unfold lowestErase
    cases hl : lowestErase p l with
    | none =>
      rw [hl] at ih
      cases he : p e <;> simp_all
    | some a =>
      rw [hl] at ih
      obtain ⟨⟨x, hx, hpx, hax⟩, hmin⟩ := ih
      cases he : p e
      · refine ⟨⟨x, List.mem_cons_of_mem _ hx, hpx, hax⟩, fun y hy hpy => ?_⟩
        rcases List.mem_cons.1 hy with rfl | hy
        · exact nomatch he.symm.trans hpy
        · exact hmin y hy hpy
      · refine ⟨?_, fun y hy hpy => ?_⟩
        · rcases Nat.le_total e.eraseCount a with h | h
          · exact ⟨e, List.mem_cons_self, he, (Nat.min_eq_left h).symm⟩
          · exact ⟨x, List.mem_cons_of_mem _ hx, hpx, hax.trans (Nat.min_eq_right h).symm⟩
        · rcases List.mem_cons.1 hy with rfl | hy
          · exact Nat.min_le_left ..
          · exact (Nat.min_le_right ..).trans (hmin y hy hpy)

theorem lt_foldl_maxErase (k : Nat) : ∀ (l : List SectorEntry) (a : Nat),
    k < l.foldl (fun a e => if e.state = .retired then a else max a e.eraseCount) a ↔
      k < a ∨ ∃ e ∈ l, e.state ≠ .retired ∧ k < e.eraseCount
  | [], a => by simp
  | e :: l, a => by
    rw [List.foldl_cons, lt_foldl_maxErase k l, List.exists_mem_cons_iff, ← or_assoc]
    by_cases he : e.state = .retired
    · simp [he]
    · simp [he]

/-- The highest erase count lies above a number exactly where that of some sector not RETIRED does. -/
theorem State.lt_maxErase_iff {s : State} {k : Nat} :
    k < s.space.maxErase ↔ ∃ n, (s.sector n).state ≠ .retired ∧ k < (s.sector n).eraseCount := by
  rw [Space.maxErase, lt_foldl_maxErase]
  constructor
  · rintro (h | ⟨e, he, hst, hk⟩)
    · exact absurd h (Nat.not_lt_zero k)
    · obtain ⟨n, rfl⟩ := State.mem_sectors.1 he
      exact ⟨n, hst, hk⟩
  · rintro ⟨n, hst, hk⟩
    exact .inr ⟨_, State.mem_sectors.2 ⟨n, rfl⟩, hst, hk⟩

/-- The wear spread, sector by sector (R158). -/
theorem State.spreadExceeds_iff {s : State} {w : Nat} : s.space.spreadExceeds w = true ↔
    ∃ a b : SectorNo, (s.sector a).state ≠ .retired ∧ (s.sector b).state = .full ∧
      16 * w + (s.sector b).eraseCount < (s.sector a).eraseCount := by
  have hlow := lowestErase_spec (fun e => e.state == .full) s.space.sectors.toList
  unfold Space.spreadExceeds
  cases hl : lowestErase (fun e => e.state == .full) s.space.sectors.toList with
  | none =>
    rw [hl] at hlow
    refine ⟨fun h => (nomatch h), fun ⟨_, b, _, hb, _⟩ => ?_⟩
    exact nomatch (hlow _ (State.mem_sectors.2 ⟨b, rfl⟩)).symm.trans (beq_iff_eq.2 hb)
  | some low =>
    rw [hl] at hlow
    obtain ⟨⟨e, he, hfull, heq⟩, hmin⟩ := hlow
    have hunit : Config.wearUnit = 16 := rfl
    show decide (w * Config.wearUnit < s.space.maxErase - low) = true ↔ _
    rw [decide_eq_true_iff, hunit, Nat.lt_sub_iff_add_lt, State.lt_maxErase_iff]
    constructor
    · rintro ⟨n, hst, hn⟩
      obtain ⟨b, rfl⟩ := State.mem_sectors.1 he
      exact ⟨n, b, hst, beq_iff_eq.1 hfull, by omega⟩
    · rintro ⟨n, b, hst, hb, hn⟩
      have := hmin _ (State.mem_sectors.2 ⟨b, rfl⟩) (beq_iff_eq.2 hb)
      exact ⟨n, hst, by omega⟩

/-! ### The start conditions -/

theorem State.writeWaits_iff {s : State} : s.writeWaits = true ↔ ∃ r, s.eng.req = some r ∧ r.phase = .waitSpace := by
  unfold State.writeWaits State.engineState
  cases s.eng.req with
  | none => simp
  | some r => cases hp : r.phase <;> simp [hp]

theorem State.cycleAsked_iff {s : State} : s.cycleAsked = true ↔ ∃ r, s.eng.req = some r ∧ r.phase = .cycle := by
  unfold State.cycleAsked
  cases s.eng.req <;> simp

theorem State.startCondition_iff {s : State} : s.startCondition = true ↔
    (∃ n, (s.sector n).state = .erasePending) ∨ (∃ r, s.eng.req = some r ∧ (r.phase = .waitSpace ∨ r.phase = .cycle)) ∨
      (s.win.mode = .auto ∧ s.rcl.noVictim = false ∧ (s.space.blankCount ≤ s.win.lowmk ∨ s.space.spreadExceeds s.win.wearsp = true)) := by
  unfold State.startCondition
  simp only [Bool.or_eq_true, Bool.and_eq_true, bne_iff_ne, beq_iff_eq, Bool.not_eq_true', decide_eq_true_iff,
    State.countState_pos_iff, State.writeWaits_iff, State.cycleAsked_iff, or_assoc, and_assoc, and_or_left, exists_or]

theorem State.mayStart_iff {s : State} : s.mayStart = true ↔ s.rcl.phase = .idle ∧ s.eng.store = .ready ∧ s.rcl.stop ≠ .format := by
  unfold State.mayStart
  simp only [Bool.and_eq_true, beq_iff_eq, bne_iff_ne, and_assoc]

/-- Settles O12: the conditions of the test are `startCondition_iff` and `spreadExceeds_iff`. -/
theorem reclaimModeWrite : Obligations.ReclaimModeWrite := by
  unfold Obligations.ReclaimModeWrite
  intro low s hl m w spread condition
  have hexec : exec (.reclaimMode low) s = .next w.startTest := congrArg Host.Outcome.next (State.access_open hl _)
  have hcond : w.startCondition = true ↔ condition := by
    rw [State.startCondition_iff]
    exact or_congr_right (or_congr_right (and_congr_right fun _ => and_congr_right fun _ => or_congr_right State.spreadExceeds_iff))
  rw [hexec]
  unfold State.startTest
  constructor
  · intro hi hst hstop hc
    have hmay : w.mayStart = true := State.mayStart_iff.2 ⟨hi, hst, hstop⟩
    rw [hmay, hcond.2 hc]
    rfl
  · intro hno
    rw [if_neg]
    rw [Bool.and_eq_true, State.mayStart_iff, hcond]
    rintro ⟨⟨hi, hst, hstop⟩, hc⟩
    exact hno ⟨hi, hst, hstop, hc⟩

/-! ### Through the buffer and back -/

theorem core_run_front {s t : State} {c : Instr} {rest : List Instr} (hp : s.pending = c :: rest)
    (ht : exec c { s with pending := rest } = .next t) (k : Nat) : Sys2Proof.core.run (k + 1) s = Sys2Proof.core.run k t := by
  have hstep : Sys2Proof.core.step s = .next t := by
    show step s = .next t
    unfold step
    rw [hp]
    exact ht
  exact (Host.Core.run.eq_2 Sys2Proof.core s k).trans (by rw [hstep])

/-- A slot after bytes written through BDATA. -/
def Slot.written (x : Slot) : List Byte → Slot
  | [] => x
  | v :: bs => ({ x with buffer := cellSet 0 x.buffer x.ptr.toNat v, ptr := x.ptr + 1 } : Slot).written bs

theorem Slot.written_bufferOpen (x : Slot) (bs : List Byte) : (x.written bs).bufferOpen = x.bufferOpen := by
  induction bs generalizing x with
  | nil => rfl
  | cons v bs ih => exact (ih _).trans rfl

/-- A position that none of the bytes reaches keeps its byte. -/
theorem Slot.written_byte_out (x : Slot) (bs : List Byte) (a : Byte) (h : ∀ j < bs.length, x.ptr + BitVec.ofNat 8 j ≠ a) :
    (x.written bs).bufferByte a.toNat = x.bufferByte a.toNat := by
  induction bs generalizing x with
  | nil => rfl
  | cons v bs ih =>
    have hne : a.toNat ≠ x.ptr.toNat := fun he => h 0 (Nat.zero_lt_succ _) (by
      rw [BitVec.add_zero]
      exact (BitVec.eq_of_toNat_eq he).symm)
    rw [Slot.written, ih _ fun j hj => ?_]
    · exact cellGet_cellSet_ne 0 _ v hne
    · have := h (j + 1) (Nat.succ_lt_succ hj)
      show x.ptr + 1 + BitVec.ofNat 8 j ≠ a
      bv_omega

/-- Up to 256 bytes written from the pointer on stand each at its position, across the wrap. -/
theorem Slot.written_byte (x : Slot) (bs : List Byte) (hlen : bs.length ≤ 256) (i : Nat) (hi : i < bs.length) :
    (x.written bs).bufferByte (x.ptr + BitVec.ofNat 8 i).toNat = bs[i] := by
  induction bs generalizing x i with
  | nil => exact absurd hi (Nat.not_lt_zero i)
  | cons v bs ih =>
    rw [List.length_cons] at hlen
    cases i with
    | zero =>
      rw [Slot.written, BitVec.add_zero, Slot.written_byte_out _ _ x.ptr fun j hj => ?_]
      · exact cellGet_cellSet_same 0 _ _ v
      · show x.ptr + 1 + BitVec.ofNat 8 j ≠ x.ptr
        bv_omega
    | succ i =>
      have hptr : x.ptr + BitVec.ofNat 8 (i + 1) = x.ptr + 1 + BitVec.ofNat 8 i := by bv_omega
      rw [hptr]
      exact ih _ (by omega) i (Nat.lt_of_succ_lt_succ hi)

/-- The bytes written one after the other. -/
theorem core_run_bdataWrites (bs : List Byte) (s : State) (rest : List Instr) (hl : s.resetLow = false)
    (ho : s.selected.bufferOpen = true) (hp : s.pending = bs.map .bdataWrite ++ rest) (k : Nat) :
    ∃ t : State, Sys2Proof.core.run (bs.length + k) s = Sys2Proof.core.run k t ∧ t.pending = rest ∧ t.resetLow = false ∧
      t.selected = s.selected.written bs := by
  induction bs generalizing s with
  | nil => exact ⟨s, by rw [List.length_nil, Nat.zero_add], hp, hl, rfl⟩
  | cons v bs ih =>
    have hexec := execBdataWrite_open (s := { s with pending := bs.map .bdataWrite ++ rest }) hl ho v
    rw [List.length_cons, Nat.succ_add, core_run_front hp hexec]
    obtain ⟨t, hrun, hpend, hlow, hsel⟩ := ih
      (({ s with pending := bs.map .bdataWrite ++ rest } : State).setSelected { s.selected with
        buffer := cellSet 0 s.selected.buffer s.selected.ptr.toNat v, ptr := s.selected.ptr + 1 })
      hl (by rw [State.selected_setSelected]; exact ho) rfl
    refine ⟨t, hrun, hpend, hlow, ?_⟩
    rw [hsel, State.selected_setSelected]
    rfl

/-- The last of a row of reads drives the byte that many positions on. -/
theorem core_run_bdataReads (n : Nat) (s : State) (hl : s.resetLow = false) (ho : s.selected.bufferOpen = true)
    (hp : s.pending = List.replicate (n + 1) .bdataRead) :
    ∃ t : State, Sys2Proof.core.run (n + 1) s = .next t ∧
      t.win.busOut = s.selected.bufferByte (s.selected.ptr + BitVec.ofNat 8 n).toNat := by
  induction n generalizing s with
  | zero =>
    refine ⟨_, core_run_front hp (execBdataRead_open (s := { s with pending := [] }) hl ho) 0, ?_⟩
    rw [BitVec.add_zero]
    rfl
  | succ n ih =>
    have hexec := execBdataRead_open (s := { s with pending := List.replicate (n + 1) .bdataRead }) hl ho
    rw [core_run_front hp hexec]
    obtain ⟨t, hrun, hbus⟩ := ih
      ((({ s with pending := List.replicate (n + 1) .bdataRead } : State).setSelected
        { s.selected with ptr := s.selected.ptr + 1 }).drive (s.selected.bufferByte s.selected.ptr.toNat))
      hl (by show (State.setSelected _ _).selected.bufferOpen = true; rw [State.selected_setSelected]; exact ho) rfl
    refine ⟨t, hrun, hbus.trans ?_⟩
    show (State.setSelected _ _).selected.bufferByte ((State.setSelected _ _).selected.ptr + _).toNat = _
    rw [State.selected_setSelected]
    have hptr : s.selected.ptr + BitVec.ofNat 8 (n + 1) = s.selected.ptr + 1 + BitVec.ofNat 8 n := by bv_omega
    rw [hptr]
    rfl

/-- Settles O17: BPTR set, the bytes written, BPTR set again, and the reads. -/
theorem bufferRoundTrip : Obligations.BufferRoundTrip := by
  unfold Obligations.BufferRoundTrip
  intro p bs s hl hv hopen hlen i
  have ho : s.selected.bufferOpen = true := (Slot.bufferOpen_iff _).2 ⟨hv, .inr (.inl hopen)⟩
  generalize hreads : List.replicate (i.val + 1) Instr.bdataRead = reads
  have hfirst := execBptrWrite_open (s := { s with pending := bs.map .bdataWrite ++ .bptrWrite p :: reads }) hl ho p
  have hsel := State.selected_setSelected { s with pending := bs.map .bdataWrite ++ .bptrWrite p :: reads } { s.selected with ptr := p }
  obtain ⟨t, hrun, hpend, hlow, hwritten⟩ := core_run_bdataWrites bs
    (({ s with pending := bs.map .bdataWrite ++ .bptrWrite p :: reads } : State).setSelected { s.selected with ptr := p })
    (.bptrWrite p :: reads) hl (by rw [hsel]; exact ho) rfl (i.val + 2)
  have hto : t.selected.bufferOpen = true := by rw [hwritten, Slot.written_bufferOpen, hsel]; exact ho
  have hsecond := execBptrWrite_open (s := { t with pending := reads }) hlow hto p
  have hsel' := State.selected_setSelected { t with pending := reads } { t.selected with ptr := p }
  obtain ⟨u, hu, hbus⟩ := core_run_bdataReads i.val
    (({ t with pending := reads } : State).setSelected { t.selected with ptr := p }) hlow (by rw [hsel']; exact hto) hreads.symm
  refine ⟨u, ?_, ?_⟩
  · rw [show bs.length + i.val + 3 = (bs.length + (i.val + 2)) + 1 by omega]
    exact (core_run_front (s := { s with pending := .bptrWrite p :: (bs.map .bdataWrite ++ .bptrWrite p :: reads) })
      rfl hfirst _).trans (hrun.trans ((core_run_front hpend hsecond _).trans hu))
  · rw [hbus, hsel', Fin.getElem_fin, ← Slot.written_byte { s.selected with ptr := p } bs hlen i.val i.isLt]
    show t.selected.bufferByte _ = _
    rw [hwritten, hsel]

end Sys2Proof.Machine

/-! PROOFS. Requests at their taking: the first checks, READ, WRITE and DELETE (chapter 7). -/

namespace Sys2Proof.Machine

set_option Elab.async false

/-! ### A row of the table whose request is due -/

/-- A row of the request engine, its request due, carries it on from its CHECK and settles. -/
theorem exec_due {i : Instr} {c : Byte} {start : Request → State → State} {s : State} {r : Request}
    (hi : ∀ s, exec i s = .next (s.serve (Params.isCode c) start)) (h : s.Due r) (hrq : r.params.rq = c)
    (hc : 1 ≤ c.toNat ∧ c.toNat ≤ 9) (ho : ¬(r.params.opt.getLsbD 0 = true ∧ r.params.opt.getLsbD 1 = true)) :
    exec i s = .next (start r s).settle := by
  rw [hi, State.serve_due h (Params.isCode_of hrq hc.1 hc.2 ho)]

section Rows
variable {s : State} {r : Request} (h : s.Due r) (ho : ¬(r.params.opt.getLsbD 0 = true ∧ r.params.opt.getLsbD 1 = true))
include h ho

theorem exec_read_due (hrq : r.params.rq = 0x01) : exec .read s = .next (r.startRead s).settle :=
  execRead_due h (Params.isCode_of hrq (by decide) (by decide) ho)

theorem exec_write_due (hrq : r.params.rq = 0x02) : exec .write s = .next (r.startWrite s).settle :=
  exec_due (fun _ => rfl) h hrq (by decide) ho

theorem exec_delete_due (hrq : r.params.rq = 0x03) : exec .delete s = .next (r.startDelete s).settle :=
  exec_due (fun _ => rfl) h hrq (by decide) ho

theorem exec_findNext_due (hrq : r.params.rq = 0x04) : exec .findNext s = .next (r.startFindNext s).settle :=
  exec_due (fun _ => rfl) h hrq (by decide) ho

theorem exec_report_due (hrq : r.params.rq = 0x05) : exec .report s = .next (r.startReport s).settle :=
  exec_due (fun _ => rfl) h hrq (by decide) ho

theorem exec_reclaim_due (hrq : r.params.rq = 0x06) : exec .reclaim s = .next (r.startReclaim s).settle :=
  exec_due (fun _ => rfl) h hrq (by decide) ho

theorem exec_classSet_due (hrq : r.params.rq = 0x07) : exec .classSet s = .next (r.startClassSet s).settle :=
  exec_due (fun _ => rfl) h hrq (by decide) ho

theorem exec_classFreeze_due (hrq : r.params.rq = 0x08) : exec .classFreeze s = .next (r.startClassFreeze s).settle :=
  exec_due (fun _ => rfl) h hrq (by decide) ho

theorem exec_format_due (hrq : r.params.rq = 0x09) : exec .format s = .next (r.startFormat s).settle :=
  exec_due (fun _ => rfl) h hrq (by decide) ho

end Rows

/-- A row whose CHECK ends the request at once. -/
theorem State.Due.refused {s : State} {r : Request} (h : s.Due r) {i : Instr} {t : State} {code : ResultCode} {f : ResultFields}
    (hexec : exec i s = .next t.settle) (ht : t = s.endRequest r code f) : ∃ t, exec i s = .next t ∧ s.Ended t r.slot code f r.flags :=
  ⟨_, hexec, ht ▸ h.toStanding.ended code f⟩

/-! ### The first checks (R15) -/

/-- Settles O19. -/
theorem badRequestEnds : Obligations.BadRequestEnds := by
  unfold Obligations.BadRequestEnds
  intro s r h hbad
  have hb : r.params.bad = true := by
    unfold Params.bad Params.ifVersion Params.ifAbsent
    rcases hbad with h0 | hA | ⟨h0, h1⟩
    · rw [h0]
      rfl
    · simp [show ¬ r.params.rq.toNat ≤ 9 by omega]
    · simp [h0, h1]
  exact h.refused (congrArg Host.Outcome.next (State.serve_due h hb)) rfl

/-- A request that its admission refuses, other than FORMAT and REPORT, ends with the code of the refusal; `change` is the kind of request
that READ_ONLY refuses. -/
theorem State.Due.refusedBy {s : State} {r : Request} (h : s.Due r)
    (ho : ¬(r.params.opt.getLsbD 0 = true ∧ r.params.opt.getLsbD 1 = true)) {change : Bool} {code : ResultCode}
    (hcode : r.refusedBy change = some code)
    (hrq : r.params.rq ∈ (if change then [0x02, 0x03, 0x06, 0x07, 0x08] else [0x01, 0x04] : List Byte)) :
    ∃ t, exec (requestRow r.params.rq) s = .next t ∧ s.Ended t r.slot code ResultFields.zero r.flags := by
  have hrefused : ∀ (i : Instr) (start next : Request → State → State), requestRow r.params.rq = i → exec i s = .next (start r s).settle →
      (start r s = match r.refusedBy change with | some c => s.endPlain r c | none => next r s) →
      ∃ t, exec (requestRow r.params.rq) s = .next t ∧ s.Ended t r.slot code ResultFields.zero r.flags := by
    intro i start next hi hexec hstart
    rw [hi]
    rw [hcode] at hstart
    exact h.refused hexec hstart
  cases change
  · rcases List.mem_cons.1 hrq with hq | hq
    · exact hrefused .read Request.startRead (fun r s => if keyIsInvalid r.params.key then s.endPlain r .keyInvalid else r.readLookup s)
        (by rw [hq]; rfl) (exec_read_due h ho hq) rfl
    · have hq := List.mem_singleton.1 hq
      exact hrefused .findNext Request.startFindNext (fun r s => if 0xFF08 ≤ r.params.key then s.endPlain r .keyInvalid
        else match s.idx.successor r.params.key r.params.cls r.params.includeSystem with
          | some e => s.endRequest r .ok e.fields
          | none => s.endPlain r .ended) (by rw [hq]; rfl) (exec_findNext_due h ho hq) rfl
  · rcases List.mem_cons.1 hrq with hq | hrq
    · exact hrefused .write Request.startWrite Request.checkWrite (by rw [hq]; rfl) (exec_write_due h ho hq) rfl
    rcases List.mem_cons.1 hrq with hq | hrq
    · exact hrefused .delete Request.startDelete Request.checkDelete (by rw [hq]; rfl) (exec_delete_due h ho hq) rfl
    rcases List.mem_cons.1 hrq with hq | hrq
    · exact hrefused .reclaim Request.startReclaim (fun r s => if s.eng.store ≠ .ready ∧ s.rcl.phase = .idle then s.endPlain r .readOnly
        else s.setReq { r with phase := .cycle }) (by rw [hq]; rfl) (exec_reclaim_due h ho hq) rfl
    rcases List.mem_cons.1 hrq with hq | hrq
    · exact hrefused .classSet Request.startClassSet Request.checkClassSet (by rw [hq]; rfl) (exec_classSet_due h ho hq) rfl
    · have hq := List.mem_singleton.1 hrq
      exact hrefused .classFreeze Request.startClassFreeze Request.checkClassFreeze (by rw [hq]; rfl) (exec_classFreeze_due h ho hq) rfl

/-- Settles O21. -/
theorem admission : Obligations.Admission := by
  unfold Obligations.Admission
  intro s r h ho
  constructor
  · intro hst hrq
    have hcode : ∀ change, r.refusedBy change = some .notReady := fun change => by
      unfold Request.refusedBy
      rw [hst]
    by_cases hread : r.params.rq ∈ ([0x01, 0x04] : List Byte)
    · exact h.refusedBy ho (hcode false) hread
    · refine h.refusedBy ho (hcode true) ?_
      simp only [List.mem_cons, List.not_mem_nil, or_false, if_true] at hread hrq ⊢
      tauto
  · intro hst hrq
    refine h.refusedBy ho (change := true) ?_ hrq
    unfold Request.refusedBy
    rw [hst]
    rfl

/-! ### READ -/

theorem Request.startRead_admitted {r : Request} (h : r.admitted ≠ .unformatted) (s : State) :
    r.startRead s = if keyIsInvalid r.params.key then s.endPlain r .keyInvalid else r.readLookup s := by
  have hno : r.refusedBy false = none := by
    unfold Request.refusedBy
    split
    · next hu => exact absurd hu h
    · rfl
    · rfl
  unfold Request.startRead
  rw [hno]

/-- Settles O22: the key is tested, the index asked, and the run claimed on an idle plane. -/
theorem readTaken : Obligations.ReadTaken := by
  unfold Obligations.ReadTaken
  intro s r h hrq ho hadm
  have hexec := exec_read_due h ho hrq
  rw [Request.startRead_admitted hadm] at hexec
  refine ⟨fun hk => ?_, fun h1 h7 hno => ?_, fun e h1 h7 he hidle => ?_⟩
  · exact h.refused hexec (if_pos (keyIsInvalid_iff.2 hk))
  all_goals
    have hvalid : ¬ keyIsInvalid r.params.key = true := by
      rw [keyIsInvalid_iff]
      omega
    rw [if_neg hvalid] at hexec
    unfold Request.readLookup at hexec
  · have hl : s.idx.lookup r.params.key = none :=
      List.find?_eq_none.2 fun e he hk => hno e he (beq_iff_eq.1 hk)
    rw [hl] at hexec
    exact h.refused hexec rfl
  · rw [he] at hexec
    dsimp only at hexec
    refine ⟨_, hexec, ?_⟩
    have hclaim : (s.setReq { r with phase := .transfer, entry := some e }).claimRead .request e.place.sector (e.place.granule 0)
        (footprint e.length / 8) = (s.setPlane (planeOf e.place.sector) ((s.plane (planeOf e.place.sector)).withRun .request e.place.sector
          (e.place.offset / 8) (.read (3 + (e.length + 7) / 8)))).setReq { r with phase := .transfer, entry := some e } := by
      unfold State.claimRead
      rw [State.setReq_claim_idle (c := { who := .request, sector := e.place.sector, first := e.place.granule 0, work := .read _ }) hidle rfl,
        show footprint e.length / 8 = 3 + (e.length + 7) / 8 by unfold footprint; omega]
      rfl
    rw [hclaim, State.settle_nil (s := State.setReq (State.setPlane s _ _) _) (by cases planeOf e.place.sector <;> exact h.quiet)]
    exact State.startTest_becomes _

end Sys2Proof.Machine

/-! PROOFS. WRITE and the class requests up to the claim of their descriptor (sections 7.3, 7.8, 8.3 and 8.5). -/

namespace Sys2Proof.Machine

set_option Elab.async false

/-! ### Refusals -/

/-- The end that a test gives, or what follows where it gives none. -/
def Request.endOr (r : Request) (s : State) (o : Option (ResultCode × ResultFields)) (t : State) : State :=
  match o with
  | some (c, f) => s.endRequest r c f
  | none => t

theorem Request.endOr_ite {r : Request} {s t u : State} {p q : Prop} [Decidable p] [Decidable q] {c : ResultCode} {f : ResultFields}
    {o : Option (ResultCode × ResultFields)} (hpq : p ↔ q) (hu : u = r.endOr s o t) :
    (if p then s.endRequest r c f else u) = r.endOr s (if q then some (c, f) else o) t := by
  by_cases hq : q
  · rw [if_pos (hpq.2 hq), if_pos hq]
    rfl
  · rw [if_neg (fun hp => hq (hpq.1 hp)), if_neg hq, hu]

theorem Request.startWrite_ready {r : Request} (h : r.admitted = .ready) (s : State) : r.startWrite s = r.checkWrite s := by
  unfold Request.startWrite
  rw [Request.refusedBy_ready h]

/-- The policy of a class, user class or not (R143). -/
def State.policyOfClass (s : State) (c : Nat) : Policy := if h : c < 8 then (s.classes[c]).policy else .rewritable

/-- The quota of a class, user class or not (R143). -/
def State.quotaOfClass (s : State) (c : Nat) : Nat := if h : c < 8 then (s.classes[c]).quota else 0

theorem State.classEntry_policy (s : State) (c : Nat) : (s.classEntry c).policy = s.policyOfClass c := by
  unfold State.classEntry State.policyOfClass
  split <;> rfl

theorem State.classEntry_quota (s : State) (c : Nat) : (s.classEntry c).quota = s.quotaOfClass c := by
  unfold State.classEntry State.quotaOfClass
  split <;> rfl

/-- The options of a WRITE as steps of a row of tests (R122). -/
theorem Request.endOr_optionTest {r : Request} {s t u : State} {p : Params} {old : Option Entry} {o : Option (ResultCode × ResultFields)}
    (hu : u = r.endOr s o t) :
    (match optionTest p old with
      | some (c, f) => s.endRequest r c f
      | none => u) =
    r.endOr s (if p.opt.getLsbD 0 = true ∧ old = none then some (.notFound, ResultFields.zero)
      else if p.opt.getLsbD 0 = true ∧ old.any (fun e => e.version != p.version) then old.map (fun e => (.versionMismatch, e.fields))
      else if p.opt.getLsbD 1 = true ∧ old ≠ none then old.map (fun e => (.exists_, e.fields))
      else o) t := by
  subst hu
  unfold optionTest Params.ifVersion Params.ifAbsent
  cases old with
  | none => cases p.opt.getLsbD 0 <;> simp [Request.endOr]
  | some e => cases p.opt.getLsbD 0 <;> cases p.opt.getLsbD 1 <;> cases he : e.version != p.version <;> simp [Request.endOr, he]

/-- The class checks of a WRITE as steps of a row of tests (R145). -/
theorem Request.endOr_classTest {r : Request} {s t u : State} {c : Nat} {old : Option Entry} {o : Option (ResultCode × ResultFields)}
    (hu : u = r.endOr s o t) :
    (match s.classTest c old with
      | some x => s.endPlain r x
      | none => u) =
    r.endOr s (if old.any (fun e => s.policyOfClass e.cls != .rewritable) then some (.policyRefused, ResultFields.zero)
      else if old.all (fun e => e.cls != c) ∧ s.policyOfClass c = .frozen then some (.policyRefused, ResultFields.zero)
      else if old.all (fun e => e.cls != c) ∧ s.quotaOfClass c ≠ 0 ∧ s.quotaOfClass c ≤ s.idx.count c then
        some (.quotaExceeded, ResultFields.zero)
      else o) t := by
  have hstep : ∀ (p : Prop) [Decidable p] (x : ResultCode) (q : Option ResultCode),
      (match if p then some x else q with
        | some x => s.endPlain r x
        | none => u) = if p then s.endRequest r x ResultFields.zero else (match q with
        | some x => s.endPlain r x
        | none => u) := fun p _ x q => by
    by_cases hp : p
    · rw [if_pos hp, if_pos hp]
      rfl
    · rw [if_neg hp, if_neg hp]
  unfold State.classTest
  simp only [State.classEntry_policy, State.classEntry_quota]
  rw [hstep, hstep, hstep]
  refine Request.endOr_ite ?_ (Request.endOr_ite ?_ (Request.endOr_ite ?_ hu)) <;> cases old <;> simp [and_assoc]

/-- The refusals of WRITE in their order (R121, R122, R145). -/
def Request.writeRefusal (r : Request) (s : State) : Option (ResultCode × ResultFields) :=
  let k := r.params.key
  let c := r.params.cls.toNat
  let old := s.idx.lookup k
  let enters : Bool := old.all (fun e => e.cls != c)
  if 0xFF00 ≤ k ∧ k ≤ 0xFF07 then some (.keyReserved, ResultFields.zero)
  else if k = 0 ∨ 0xFF08 ≤ k then some (.keyInvalid, ResultFields.zero)
  else if 7 < c then some (.classInvalid, ResultFields.zero)
  else if 240 < r.params.len.toNat then some (.lengthInvalid, ResultFields.zero)
  else if r.params.opt.getLsbD 0 = true ∧ old = none then some (.notFound, ResultFields.zero)
  else if r.params.opt.getLsbD 0 = true ∧ old.any (fun e => e.version != r.params.version) then
    old.map (fun e => (.versionMismatch, e.fields))
  else if r.params.opt.getLsbD 1 = true ∧ old ≠ none then old.map (fun e => (.exists_, e.fields))
  else if old.any (fun e => s.policyOfClass e.cls != .rewritable) then some (.policyRefused, ResultFields.zero)
  else if enters ∧ s.policyOfClass c = .frozen then some (.policyRefused, ResultFields.zero)
  else if enters ∧ s.quotaOfClass c ≠ 0 ∧ s.quotaOfClass c ≤ s.idx.count c then some (.quotaExceeded, ResultFields.zero)
  else if old = none ∧ 1024 ≤ s.idx.entries.length then some (.indexFull, ResultFields.zero)
  else none

/-- The record that a WRITE goes on to place (R121). -/
def Request.writeJob (r : Request) (s : State) : Request :=
  { r with job := { r.job with
    key := r.params.key, cls := r.params.clsNo, length := r.params.length, payload := (s.slot r.slot).bufferHead r.params.length } }

/-- WRITE's CHECK: the refusals in their order, then the moving mark, then PLACE. -/
theorem Request.checkWrite_eq (r : Request) (s : State) :
    r.checkWrite s = r.endOr s (r.writeRefusal s)
      (if markedEntry (s.idx.lookup r.params.key) then r.waitMove r.params.key s else (r.writeJob s).placeStep s) := by
  unfold Request.checkWrite Request.writeRefusal
  refine Request.endOr_ite keyIsSystem_iff (Request.endOr_ite keyIsInvalid_iff (Request.endOr_ite Iff.rfl (Request.endOr_ite Iff.rfl ?_)))
  refine Request.endOr_optionTest (Request.endOr_classTest (Request.endOr_ite ?_ rfl))
  rw [Bool.and_eq_true, Option.isNone_iff_eq_none]
  exact and_congr_right fun _ => decide_eq_true_iff

theorem Request.waitMove_settle {r : Request} {s : State} (ha : s.agenda = []) (k : Nat) :
    ({ s with idx := { s.idx with waiter := some k } }.setReq
      { r with phase := .waitMove, flags := { r.flags with waited := true }, job := { r.job with place := none } }).Becomes
        (r.waitMove k s).settle := by
  rw [State.settle_nil (s := r.waitMove k s) ha]
  exact State.startTest_becomes _

theorem markedEntry_eq (o : Option Entry) : markedEntry o = o.any (fun e => e.moving) := by
  cases o <;> rfl

/-- Settles O24: the row of tests is `checkWrite_eq`. -/
theorem writeRefusals : Obligations.WriteRefusals := by
  unfold Obligations.WriteRefusals
  intro s r h hrq hadm ho k c old policy quota enters refusal
  have hrefusal : refusal = r.writeRefusal s := rfl
  have hexec := exec_write_due h ho hrq
  rw [Request.startWrite_ready hadm, Request.checkWrite_eq, ← hrefusal] at hexec
  refine ⟨fun code f hr => ?_, fun hr hm => ?_⟩
  · rw [hr] at hexec
    exact h.refused hexec rfl
  · rw [hr, markedEntry_eq, if_pos hm] at hexec
    exact ⟨_, hexec, Request.waitMove_settle h.quiet k⟩

/-! ### PLACE with room, and DESCRIPTOR -/

/-- The ACTIVE request changed and a program run claimed on an idle plane. -/
theorem State.setReq_claimProgram_idle {s : State} {r : Request} {n : SectorNo} {first : Nat} {data : List Byte} {mode : Verify}
    (h : (s.plane (planeOf n)).Idle) : (s.setReq r).claimProgram .request n first data mode =
      (s.setPlane (planeOf n) ((s.plane (planeOf n)).withRun .request n first (.program data mode))).setReq r :=
  State.setReq_claim_idle (c := { who := .request, sector := n, first := first, work := .program data mode }) h rfl

/-- Placing a record in an open sector changes its entry alone (R63). -/
theorem State.placeRecord_eq {s : State} {n : SectorNo} (h : (s.sector n).state ≠ .full) (fp : Nat) :
    s.placeRecord n fp = s.putSector n ((s.sector n).place fp) :=
  State.setSector_same rfl (clearsLatch_same rfl rfl (.inr h))

theorem Space.findState_state {x : Space} {st : SectorState} {n : SectorNo} (h : x.findState st = some n) :
    x.sectors[n].state = st :=
  beq_iff_eq.1 (List.find?_some (p := fun n : SectorNo => x.sectors[n].state == st) h)

/-- The state once a record has its place in the HOST_OPEN sector `n` and its descriptor run claimed on an idle plane (R123, R125). -/
def Request.described (r : Request) (n : SectorNo) (s : State) : State :=
  let fp := footprint r.job.length
  let e := s.sector n
  let job := { r.job with place := some { sector := n, offset := e.append }, version := s.eng.writeSeq }
  { (s.putSector n (e.place fp)).setPlane (planeOf n)
      ((s.plane (planeOf n)).withRun .request n (e.append / 8) (.program job.descriptor .exact)) with
    idx := { s.idx with hold := some r.job.key }
    eng := { s.eng with
      writeSeq := s.eng.writeSeq + 1
      req := some { r with phase := .descriptor, entry := s.idx.lookup r.job.key, job := job } } }

/-- DESCRIPTOR in READY with the hold granted and the counter not exhausted by it (R125). -/
theorem Request.descriptorStep_held {r : Request} {p : Place} {t : State} {idx : KeyIndex} {old : Option Entry}
    (hst : t.eng.store = .ready) (hold : t.idx.takeHold r.job.key = some (idx, old))
    (hseq : ¬ t.eng.writeSeq + 1 = Config.writeSeqExhausted) :
    r.descriptorStep p t = (({ t with idx := idx, eng := { t.eng with writeSeq := t.eng.writeSeq + 1 } } : State).setReq
      { r with phase := .descriptor, entry := old, job := { r.job with place := some p, version := t.eng.writeSeq } }).claimProgram
        .request p.sector (p.granule 0) { r.job with place := some p, version := t.eng.writeSeq }.descriptor .exact := by
  unfold Request.descriptorStep
  rw [hold]
  dsimp only
  rw [if_neg (not_not.2 hst), if_neg hseq]

/-- PLACE in a HOST_OPEN sector with room, and DESCRIPTOR on its idle plane. -/
theorem Request.placeStep_room {r : Request} {s : State} {n : SectorNo} (hn : s.space.findState .hostOpen = some n)
    (hroom : (s.sector n).append + footprint r.job.length ≤ 4096) (hf : r.job.faults = 0) (hst : s.eng.store = .ready)
    (hold : s.idx.takeHold r.job.key = some ({ s.idx with hold := some r.job.key }, s.idx.lookup r.job.key))
    (hseq : s.eng.writeSeq < 4294967295) (hidle : (s.plane (planeOf n)).Idle) : r.placeStep s = r.described n s := by
  have hopen : (s.sector n).state = .hostOpen := Space.findState_state hn
  have hfree : footprint r.job.length ≤ (s.sector n).free := by
    show _ ≤ Config.sectorSize - (s.sector n).append
    have : Config.sectorSize = 4096 := rfl
    omega
  have hexhausted : ¬ s.eng.writeSeq + 1 = Config.writeSeqExhausted := by
    have : Config.writeSeqExhausted = 4294967296 := rfl
    omega
  unfold Request.placeStep
  rw [hn]
  dsimp only
  rw [if_pos hfree]
  unfold Request.placed
  dsimp only
  rw [if_pos hf, State.placeRecord_eq (by rw [hopen]; exact fun h => nomatch h)]
  rw [Request.descriptorStep_held (t := s.putSector n _) (r := r) hst hold hexhausted]
  rw [State.setReq_claimProgram_idle (by exact hidle)]
  unfold Request.described
  cases planeOf n <;> rfl

theorem KeyIndex.takeHold_unmarked {x : KeyIndex} {k : Nat} (h : ∀ e, x.lookup k = some e → e.moving = false) :
    x.takeHold k = some ({ x with hold := some k }, x.lookup k) := by
  unfold KeyIndex.takeHold
  cases hl : x.lookup k with
  | none => rfl
  | some e =>
    dsimp only
    rw [h e hl, if_neg Bool.false_ne_true]

theorem markedEntry_unmarked {x : KeyIndex} {k : Nat} (h : ∀ e, x.lookup k = some e → e.moving = false) :
    markedEntry (x.lookup k) = false := by
  cases hl : x.lookup k with
  | none => rfl
  | some e => exact h e hl

theorem Request.described_agenda (r : Request) (n : SectorNo) (s : State) : (r.described n s).agenda = s.agenda := by
  unfold Request.described
  cases planeOf n <;> rfl

/-- With every class at its default and no option set, a WRITE of a good key is refused for a full index alone. -/
theorem Request.writeRefusal_none {r : Request} {s : State} (h1 : 1 ≤ r.params.key) (h2 : r.params.key ≤ 0xFEFF)
    (hc : r.params.cls.toNat ≤ 7) (hl : r.params.len.toNat ≤ 240) (h0 : r.params.opt.getLsbD 0 = false)
    (h1' : r.params.opt.getLsbD 1 = false) (hcls : ∀ c : Fin 8, s.classes[c] = ClassEntry.default)
    (hfull : s.idx.lookup r.params.key = none → s.idx.entries.length < 1024) : r.writeRefusal s = none := by
  have hpolicy : ∀ c, s.policyOfClass c = .rewritable := fun c => by
    unfold State.policyOfClass
    split
    · next h => exact congrArg ClassEntry.policy (hcls ⟨c, h⟩)
    · rfl
  have hquota : ∀ c, s.quotaOfClass c = 0 := fun c => by
    unfold State.quotaOfClass
    split
    · next h => exact congrArg ClassEntry.quota (hcls ⟨c, h⟩)
    · rfl
  unfold Request.writeRefusal
  dsimp only
  rw [if_neg (by omega), if_neg (by omega), if_neg (by omega), if_neg (by omega), h0, h1']
  simp only [Bool.false_eq_true, false_and, if_false, hpolicy, hquota, bne_self_eq_false, Option.any_false, reduceCtorEq, and_false, ne_eq,
    not_true_eq_false]
  rw [if_neg]
  rintro ⟨hnone, hlen⟩
  exact absurd (hfull hnone) (Nat.not_lt.2 hlen)

/-- Settles O25: no test refuses, the index has no mark, and PLACE finds room. -/
theorem writeProgramsDescriptor : Obligations.WriteProgramsDescriptor := by
  unfold Obligations.WriteProgramsDescriptor
  intro s r n h hrq hadm hst hf h1 h2 hc hlen h0 h1' hcls hold hfull hn hroom hseq hidle fp e job granule placed
  have hmark : ∀ e, s.idx.lookup r.params.key = some e → e.moving = false := fun e he => (hold e he).1
  have hexec := exec_write_due h (fun hb => nomatch h0.symm.trans hb.1) hrq
  rw [Request.startWrite_ready hadm, Request.checkWrite_eq,
    Request.writeRefusal_none h1 h2 hc hlen h0 h1' hcls hfull, markedEntry_unmarked hmark, if_neg Bool.false_ne_true] at hexec
  have hstep : (r.writeJob s).placeStep s = (r.writeJob s).described n s :=
    Request.placeStep_room hn (by rw [Nat.add_assoc] at hroom; exact hroom) hf hst (KeyIndex.takeHold_unmarked hmark) hseq hidle
  refine ⟨_, hexec, ?_⟩
  show State.Becomes _ ((r.writeJob s).placeStep s).settle
  have hto : (r.writeJob s).described n s = { placed with
      idx := { s.idx with hold := some r.params.key }
      eng := { s.eng with
        writeSeq := s.eng.writeSeq + 1
        req := some { r with phase := .descriptor, entry := s.idx.lookup r.params.key, job := job } } } := by
    have hgranule : job.descriptor = granule := by
      show toBytes _ 2 ++ [BitVec.ofNat 8 r.params.cls.toNat, BitVec.ofNat 8 r.params.len.toNat] ++ toBytes _ 4 = _
      rw [BitVec.ofNat_toNat, BitVec.ofNat_toNat, BitVec.setWidth_eq, BitVec.setWidth_eq]
    have hjob : { (r.writeJob s).job with place := some { sector := n, offset := e.append }, version := s.eng.writeSeq } = job := by
      show ({ key := _, cls := _, length := _, payload := _, place := _, version := _, faults := r.job.faults } : WriteJob) = _
      rw [hf]
      rfl
    unfold Request.described
    dsimp only
    rw [hjob, hgranule]
    rfl
  rw [hstep, State.settle_nil ((Request.described_agenda _ n s).trans h.quiet), hto]
  exact State.startTest_becomes _

/-! ### The class requests -/

theorem Request.endOr_ite_code {r : Request} {s t u : State} {p q : Prop} [Decidable p] [Decidable q] {c : ResultCode}
    {o : Option ResultCode} (hpq : p ↔ q) (hu : u = r.endOr s (o.map fun c => (c, ResultFields.zero)) t) :
    (if p then s.endPlain r c else u) = r.endOr s ((if q then some c else o).map fun c => (c, ResultFields.zero)) t := by
  rw [apply_ite (Option.map _)]
  exact Request.endOr_ite hpq hu

/-- The refusals of CLASS_SET in their order (R150). -/
def Request.setRefusal (r : Request) (s : State) : Option ResultCode :=
  let c := r.params.cls.toNat
  let now := s.classEntry c
  let quota := ((s.slot r.slot).bufferByte 1).toNat + 256 * ((s.slot r.slot).bufferByte 2).toNat
  if 7 < c then some .classInvalid
  else if !policyChange now.policy ((s.slot r.slot).bufferByte 0).toNat then some .policyRefused
  else if 1024 < quota ∨ (quota ≠ 0 ∧ quota < s.idx.count c) then some .quotaExceeded
  else if !now.present && decide (1024 ≤ s.idx.entries.length) then some .indexFull
  else none

/-- The refusals of CLASS_FREEZE in their order (R151). -/
def Request.freezeRefusal (r : Request) (s : State) : Option ResultCode :=
  let c := r.params.cls.toNat
  let now := s.classEntry c
  if 7 < c then some .classInvalid
  else if now.policy = .frozen then some .policyRefused
  else if !now.present && decide (1024 ≤ s.idx.entries.length) then some .indexFull
  else none

/-- The payload of the descriptor that a class request writes (R138). -/
def Request.classPayload (r : Request) (freeze : Bool) (s : State) : List Byte :=
  if freeze then 2 :: toBytes (s.classEntry r.params.clsNo).quota 2 else (s.slot r.slot).bufferHead 3

/-- What a class request does that no test refuses. -/
def Request.classOnward (r : Request) (freeze : Bool) (s : State) : State :=
  if markedEntry (s.idx.lookup (descriptorKey r.params.clsNo)) then r.waitMove (descriptorKey r.params.clsNo) s
  else (r.classJob (r.classPayload freeze s)).placeStep s

theorem Request.checkClassSet_eq (r : Request) (s : State) :
    r.checkClassSet s = r.endOr s ((r.setRefusal s).map fun c => (c, ResultFields.zero)) (r.classOnward false s) :=
  Request.endOr_ite_code Iff.rfl (Request.endOr_ite_code Iff.rfl (Request.endOr_ite_code Iff.rfl (Request.endOr_ite_code Iff.rfl rfl)))

theorem Request.checkClassFreeze_eq (r : Request) (s : State) :
    r.checkClassFreeze s = r.endOr s ((r.freezeRefusal s).map fun c => (c, ResultFields.zero)) (r.classOnward true s) :=
  Request.endOr_ite_code Iff.rfl (Request.endOr_ite_code Iff.rfl (Request.endOr_ite_code Iff.rfl rfl))

theorem Request.startClassSet_ready {r : Request} (h : r.admitted = .ready) (s : State) : r.startClassSet s = r.checkClassSet s := by
  unfold Request.startClassSet
  rw [Request.refusedBy_ready h]

theorem Request.startClassFreeze_ready {r : Request} (h : r.admitted = .ready) (s : State) :
    r.startClassFreeze s = r.checkClassFreeze s := by
  unfold Request.startClassFreeze
  rw [Request.refusedBy_ready h]

/-- Settles O30: the rows of tests are `checkClassSet_eq` and `checkClassFreeze_eq`. -/
theorem classRefusals : Obligations.ClassRefusals := by
  unfold Obligations.ClassRefusals
  intro s r h hadm ho c now code quota permitted full setRefusal freezeRefusal
  have hset : setRefusal = r.setRefusal s := rfl
  have hfreeze : freezeRefusal = r.freezeRefusal s := rfl
  refine ⟨fun hrq x hx => ?_, fun hrq x hx => ?_⟩
  · have hexec := exec_classSet_due h ho hrq
    rw [Request.startClassSet_ready hadm, Request.checkClassSet_eq, ← hset, hx] at hexec
    exact h.refused hexec rfl
  · have hexec := exec_classFreeze_due h ho hrq
    rw [Request.startClassFreeze_ready hadm, Request.checkClassFreeze_eq, ← hfreeze, hx] at hexec
    exact h.refused hexec rfl

/-- Settles O31: no test refuses, and the descriptor is placed as a WRITE's is (`placeStep_room`). -/
theorem classRequestProgramsDescriptor : Obligations.ClassRequestProgramsDescriptor := by
  unfold Obligations.ClassRequestProgramsDescriptor
  intro s r n freeze h hrq hadm hst hf ho hc c now b0 quota hfrozen hset hpresent hmark hn hroom hseq hidle e job granule placed
  have hentry : s.classEntry r.params.cls.toNat = now := State.classEntry_of_lt hc
  have hc7 : ¬ 7 < r.params.cls.toNat := by omega
  have hfull : ¬ ((!now.present && decide (1024 ≤ s.idx.entries.length)) = true) := by
    rw [Bool.and_eq_true, Bool.not_eq_true', decide_eq_true_iff]
    rintro ⟨hp, hlen⟩
    exact absurd (hpresent hp) (Nat.not_lt.2 hlen)
  have hexec : exec (if freeze then .classFreeze else .classSet) s = .next (r.classOnward freeze s).settle := by
    cases freeze with
    | true =>
      have hnone : r.freezeRefusal s = none := by
        unfold Request.freezeRefusal
        dsimp only
        rw [hentry, if_neg hc7, if_neg hfrozen, if_neg hfull]
      have hexec := exec_classFreeze_due h ho hrq
      rw [Request.startClassFreeze_ready hadm, Request.checkClassFreeze_eq, hnone] at hexec
      exact hexec
    | false =>
      obtain ⟨hb, honce, hquota, hcount⟩ := hset rfl
      have hchange : policyChange now.policy ((s.slot r.slot).bufferByte 0).toNat = true := by
        unfold policyChange
        cases hp : now.policy with
        | rewritable => simpa [Nat.le_one_iff_eq_zero_or_eq_one] using hb
        | writeOnce => simpa using honce hp
        | frozen => exact absurd hp hfrozen
      have hnone : r.setRefusal s = none := by
        unfold Request.setRefusal
        dsimp only
        rw [hentry, if_neg hc7, hchange, Bool.not_true, if_neg Bool.false_ne_true, if_neg, if_neg hfull]
        rintro (hq | ⟨hq, hlt⟩)
        · exact absurd hquota (Nat.not_le.2 hq)
        · exact hcount.elim hq (Nat.not_le.2 hlt)
      have hexec := exec_classSet_due h ho hrq
      rw [Request.startClassSet_ready hadm, Request.checkClassSet_eq, hnone] at hexec
      exact hexec
  have hfp : footprint (r.classJob (r.classPayload freeze s)).job.length = 32 := by
    show footprint 3 = 32
    rfl
  have honward : r.classOnward freeze s = (r.classJob (r.classPayload freeze s)).described n s := by
    unfold Request.classOnward
    rw [if_neg (by rw [markedEntry_unmarked (k := descriptorKey r.params.clsNo) hmark]; exact Bool.false_ne_true)]
    exact Request.placeStep_room hn (by rw [hfp]; exact hroom) hf hst (KeyIndex.takeHold_unmarked hmark) hseq hidle
  refine ⟨_, hexec, ?_⟩
  have hto : (r.classJob (r.classPayload freeze s)).described n s = { placed with
      idx := { s.idx with hold := some (0xFF00 + c) }
      eng := { s.eng with
        writeSeq := s.eng.writeSeq + 1
        req := some { r with phase := .descriptor, entry := s.idx.lookup (0xFF00 + c), job := job } } } := by
    have hpayload : r.classPayload freeze s = if freeze then 2 :: toBytes now.quota 2 else (s.slot r.slot).bufferHead 3 := by
      unfold Request.classPayload Params.clsNo
      rw [hentry]
    have hjob : { (r.classJob (r.classPayload freeze s)).job with
        place := some { sector := n, offset := e.append }, version := s.eng.writeSeq } = job := by
      show ({ key := _, cls := _, length := _, payload := _, place := _, version := _, faults := r.job.faults } : WriteJob) = _
      rw [hf, hpayload]
      rfl
    have hgranule : job.descriptor = granule := rfl
    unfold Request.described
    dsimp only
    rw [hjob, hgranule, hfp]
    rfl
  rw [honward, State.settle_nil ((Request.described_agenda _ n s).trans h.quiet), hto]
  exact State.startTest_becomes _

end Sys2Proof.Machine

/-! PROOFS. DELETE, FIND_NEXT, REPORT and RECLAIM at their taking (sections 7.4 to 7.7). -/

namespace Sys2Proof.Machine

set_option Elab.async false

/-! ### DELETE -/

/-- The refusals of DELETE in their order (R131). -/
def Request.deleteRefusal (r : Request) (s : State) : Option (ResultCode × ResultFields) :=
  let k := r.params.key
  let old := s.idx.lookup k
  if 0xFF00 ≤ k ∧ k ≤ 0xFF07 then some (.keyReserved, ResultFields.zero)
  else if k = 0 ∨ 0xFF08 ≤ k then some (.keyInvalid, ResultFields.zero)
  else if old = none then some (.notFound, ResultFields.zero)
  else if r.params.opt.getLsbD 0 = true ∧ old.any (fun e => e.version != r.params.version) then
    old.map (fun e => (.versionMismatch, e.fields))
  else if old.any (fun e => s.policyOfClass e.cls != .rewritable) then some (.policyRefused, ResultFields.zero)
  else none

/-- What a DELETE of the record of `e` does that no test refuses (R84, R132). -/
def Request.retireHeld (r : Request) (e : Entry) (s : State) : State :=
  if e.moving then r.waitMove r.params.key s
  else
    ({ s with idx := { s.idx with hold := some r.params.key } }.setReq { r with phase := .retire, entry := some e }).claimProgram .request
      e.place.sector (e.place.granule 2) markGranule .notErased

theorem Request.checkDelete_eq {r : Request} {s : State} (hst : s.eng.store = .ready) :
    r.checkDelete s = r.endOr s (r.deleteRefusal s) ((s.idx.lookup r.params.key).elim s (fun e => r.retireHeld e s)) := by
  unfold Request.checkDelete Request.deleteRefusal
  rw [if_neg (not_not.2 hst)]
  refine Request.endOr_ite keyIsSystem_iff (Request.endOr_ite keyIsInvalid_iff ?_)
  unfold KeyIndex.takeHold
  cases s.idx.lookup r.params.key with
  | none => rfl
  | some e =>
    rw [if_neg (fun h => nomatch h)]
    by_cases hver : r.params.ifVersion = true ∧ (e.version != r.params.version) = true
    · have hver' : r.params.opt.getLsbD 0 = true ∧ (some e).any (fun e => e.version != r.params.version) = true := hver
      rw [if_pos hver']
      dsimp only
      rw [if_pos (Bool.and_eq_true_iff.2 hver)]
      rfl
    · have hver' : ¬ (r.params.opt.getLsbD 0 = true ∧ (some e).any (fun e => e.version != r.params.version) = true) := hver
      rw [if_neg hver']
      dsimp only
      rw [if_neg (fun h => hver (Bool.and_eq_true_iff.1 h)), State.classEntry_policy]
      refine Request.endOr_ite bne_iff_ne.symm ?_
      cases hm : e.moving <;> simp [Request.retireHeld, hm] <;> rfl

theorem Request.startDelete_ready {r : Request} (h : r.admitted = .ready) (s : State) : r.startDelete s = r.checkDelete s := by
  unfold Request.startDelete
  rw [Request.refusedBy_ready h]

/-- Settles O26: the row of tests is `checkDelete_eq`; past them the entry's mark decides. -/
theorem deleteTaken : Obligations.DeleteTaken := by
  unfold Obligations.DeleteTaken
  intro s r h hrq hadm hst ho k old policy refusal
  have hrefusal : refusal = r.deleteRefusal s := rfl
  have hexec := exec_delete_due h ho hrq
  rw [Request.startDelete_ready hadm, Request.checkDelete_eq hst, ← hrefusal] at hexec
  refine ⟨fun code f hr => ?_, fun e hr he hm hidle => ?_, fun e hr he hm => ?_⟩
  · rw [hr] at hexec
    exact h.refused hexec rfl
  all_goals
    have he : s.idx.lookup r.params.key = some e := he
    rw [hr, he] at hexec
    refine ⟨_, hexec, ?_⟩
    show State.Becomes _ (r.retireHeld e s).settle
    unfold Request.retireHeld
    rw [hm]
  · rw [if_neg Bool.false_ne_true, State.setReq_claimProgram_idle (by exact hidle), State.setReq_settle]
    · have hto : ∀ x : Plane, ({ s with idx := { s.idx with hold := some k } } : State).setPlane (planeOf e.place.sector) x =
          { s.setPlane (planeOf e.place.sector) x with idx := { s.idx with hold := some k } } := fun x => by
        cases planeOf e.place.sector <;> rfl
      rw [show r.params.key = k from rfl, hto]
      exact State.startTest_becomes _
    · cases planeOf e.place.sector <;> exact h.quiet
  · rw [if_pos rfl]
    exact Request.waitMove_settle h.quiet k

/-! ### FIND_NEXT -/

theorem Request.startFindNext_admitted {r : Request} (h : r.admitted ≠ .unformatted) (s : State) :
    r.startFindNext s = if 0xFF08 ≤ r.params.key then s.endPlain r .keyInvalid
      else match s.idx.successor r.params.key r.params.cls (r.params.opt.getLsbD 2) with
        | some e => s.endRequest r .ok e.fields
        | none => s.endPlain r .ended := by
  have hno : r.refusedBy false = none := by
    unfold Request.refusedBy
    split
    · next hu => exact absurd hu h
    · rfl
    · rfl
  unfold Request.startFindNext
  rw [hno]
  rfl

/-- Settles O27. -/
theorem findNextEnds : Obligations.FindNextEnds := by
  unfold Obligations.FindNextEnds
  intro s r h hrq ho hadm
  refine ⟨_, exec_findNext_due h ho hrq, fun hk => ?_, fun hk => ⟨fun e he => ?_, fun he => ?_⟩⟩
  · rw [Request.startFindNext_admitted hadm, if_pos hk]
    exact h.toStanding.ended _ _
  all_goals
    rw [Request.startFindNext_admitted hadm, if_neg (Nat.not_le.2 (Nat.lt_succ_of_le hk)), he]
    exact h.toStanding.ended _ _

/-! ### REPORT -/

theorem ofBytes_toBytes (n k : Nat) : ofBytes (toBytes n k) = n % 256 ^ k := by
  induction k generalizing n with
  | zero => rw [Nat.pow_zero, Nat.mod_one]; rfl
  | succ k ih =>
    have hpow : 256 ^ (k + 1) = 256 * 256 ^ k := Nat.pow_succ'
    rw [toBytes, ofBytes, ih, BitVec.toNat_ofNat, hpow, Nat.mod_mul]

theorem State.length_reportBytes (s : State) : s.reportBytes.length = 40 := by
  simp [State.reportBytes, toBytes]

/-- A buffer filled holds the bytes given from position 0 on, and what it held beyond them (R107). -/
theorem Slot.cellGet_fillBuffer {x : Slot} {bs : List Byte} (h : bs.length ≤ 256) (i : Nat) :
    cellGet 0 (x.fillBuffer bs).buffer i = if i < bs.length then bs.getD i 0 else x.bufferByte i := by
  show cellGet 0 (cellWrite 0 x.buffer 0 (bs.take 256)) i = _
  rw [List.take_of_length_le h, cellGet_fill]
  split
  · next hi => exact (List.getD_eq_getElem _ _ hi).symm
  · rfl

/-- A field of a filled buffer is read back from the bytes that filled it. -/
theorem Slot.cellRead_fillBuffer {x : Slot} {bs : List Byte} (h : bs.length ≤ 256) {o k : Nat} (hk : o + k ≤ bs.length) :
    cellRead 0 (x.fillBuffer bs).buffer o k = (bs.drop o).take k := by
  refine List.ext_getElem (by simp; omega) fun i h1 h2 => ?_
  rw [getElem_cellRead, Slot.cellGet_fillBuffer h]
  have hi : i < k := by simpa using h1
  rw [if_pos (by omega), List.getElem_take, List.getElem_drop, List.getD_eq_getElem _ _ (by omega)]

theorem Space.countState_le (x : Space) (st : SectorState) : x.countState st ≤ 64 := by
  have hle := List.countP_le_length (p := fun e : SectorEntry => e.state == st) (l := x.sectors.toList)
  rwa [Vector.length_toList] at hle

theorem StoreState.code_lt (x : StoreState) : x.code < 256 := by
  cases x <;> decide

/-- The end of a request that has filled its buffer first. -/
theorem State.Standing.filled_ended {s : State} {r : Request} (h : s.Standing r) (bs : List Byte) (code : ResultCode)
    (f : ResultFields) :
    (s.setSlot r.slot { s.slot r.slot with buffer := ((s.slot r.slot).fillBuffer bs).buffer }).Ended
      ((s.setSlot r.slot ((s.slot r.slot).fillBuffer bs)).endRequest r code f).settle r.slot code f r.flags :=
  State.endRequest_ended (s := s.setSlot r.slot ((s.slot r.slot).fillBuffer bs)) h.quiet h.noHold h.noWaiter
    (by rw [State.slot_setSlot_same]; exact h.visible) h.notQueued

/-- Settles O28: each field is the number whose bytes stand at its positions (`ofBytes_toBytes`). -/
theorem reportFills : Obligations.ReportFills := by
  unfold Obligations.ReportFills
  intro s r h hrq ho
  have hlen : s.reportBytes.length ≤ 256 := by rw [State.length_reportBytes]; decide
  refine ⟨_, ((s.slot r.slot).fillBuffer s.reportBytes).buffer, exec_report_due h ho hrq, ?_, fun i hi => ?_, ?_⟩
  · exact h.toStanding.filled_ended s.reportBytes _ _
  · rw [Slot.cellGet_fillBuffer hlen, State.length_reportBytes, if_neg (Nat.not_lt.2 hi)]
  · intro field
    have hfield : ∀ o k, o + k ≤ 40 → field o k = ofBytes ((s.reportBytes.drop o).take k) := fun o k hk =>
      congrArg ofBytes (Slot.cellRead_fillBuffer hlen (by rw [State.length_reportBytes]; exact hk))
    have hnumber : ∀ o k n, o + k ≤ 40 → (s.reportBytes.drop o).take k = toBytes n k → field o k = n % 256 ^ k := fun o k n hk hn => by
      rw [hfield o k hk, hn, ofBytes_toBytes]
    have hbyte : ∀ o n, n < 256 → o + 1 ≤ 40 → (s.reportBytes.drop o).take 1 = toBytes n 1 → field o 1 = n := fun o n hlt hk hn => by
      rw [hnumber o 1 n hk hn, Nat.pow_one, Nat.mod_eq_of_lt hlt]
    have hcount : ∀ st, s.space.countState st < 256 := fun st => Nat.lt_of_le_of_lt (s.space.countState_le st) (by decide)
    unfold State.reportBytes at hnumber hbyte
    simp only [toBytes, List.cons_append, List.nil_append] at hnumber hbyte
    exact ⟨hbyte 0 _ s.eng.store.code_lt (by decide) rfl, hbyte 1 _ (hcount _) (by decide) rfl, hbyte 2 _ (hcount _) (by decide) rfl,
      hbyte 3 _ (hcount _) (by decide) rfl, hnumber 4 2 _ (by decide) rfl, hnumber 6 2 _ (by decide) rfl,
      hnumber 8 2 _ (by decide) rfl, hnumber 10 3 _ (by decide) rfl, hnumber 13 3 _ (by decide) rfl, hnumber 16 3 _ (by decide) rfl,
      hnumber 19 3 _ (by decide) rfl, hnumber 22 4 _ (by decide) rfl, hnumber 26 2 _ (by decide) rfl, hnumber 28 2 _ (by decide) rfl,
      hnumber 30 2 _ (by decide) rfl, hnumber 32 2 _ (by decide) rfl, hnumber 34 2 _ (by decide) rfl, hnumber 36 2 _ (by decide) rfl,
      hnumber 38 1 _ (by decide) rfl, hnumber 39 1 _ (by decide) rfl⟩

/-! ### RECLAIM -/

/-- Settles O29: a RECLAIM in CYCLE is a start condition in either mode (R156). -/
theorem reclaimEntersCycle : Obligations.ReclaimEntersCycle := by
  unfold Obligations.ReclaimEntersCycle
  intro s r h hrq hadm hst ho
  have hstart : r.startReclaim s = s.setReq { r with phase := .cycle } := by
    unfold Request.startReclaim
    rw [Request.refusedBy_ready hadm]
    exact if_neg fun hno => hno.1 hst
  have hcond : (s.setReq { r with phase := .cycle }).startCondition = true :=
    State.startCondition_iff.2 (.inr (.inl ⟨_, rfl, .inr rfl⟩))
  have hmay : (s.setReq { r with phase := .cycle }).mayStart = true ↔ s.rcl.phase = .idle ∧ s.rcl.stop ≠ .format :=
    State.mayStart_iff.trans ⟨fun ⟨hi, _, hs⟩ => ⟨hi, hs⟩, fun ⟨hi, hs⟩ => ⟨hi, hst, hs⟩⟩
  rw [exec_reclaim_due h ho hrq, hstart, State.setReq_settle h.quiet]
  unfold State.startTest
  rw [hcond, Bool.and_true]
  by_cases hgo : s.rcl.phase = .idle ∧ s.rcl.stop ≠ .format
  · rw [if_pos (hmay.2 hgo), if_pos hgo]
    rfl
  · rw [if_neg (fun hm => hgo (hmay.1 hm)), if_neg hgo]
    rfl

end Sys2Proof.Machine

/-! PROOFS. Changes of the sector table without a change of the BLANK count, and FORMAT at its taking (sections 4.8 and 7.9). -/

namespace Sys2Proof.Machine

set_option Elab.async false

/-! ### The sector table -/

theorem length_allSectors : allSectors.length = 64 := List.length_ofFn

theorem getElem_allSectors {i : Nat} (hi : i < allSectors.length) : allSectors[i] = ⟨i, length_allSectors ▸ hi⟩ := List.getElem_ofFn hi

theorem mem_allSectors (n : SectorNo) : n ∈ allSectors := List.mem_ofFn.2 ⟨n, rfl⟩

theorem find?_allSectors {p : SectorNo → Bool} {n : SectorNo} :
    allSectors.find? p = some n ↔ p n = true ∧ ∀ m, m < n → p m = false := by
  rw [List.find?_eq_some_iff_getElem]
  refine and_congr_right fun _ => ⟨?_, fun h => ⟨n.val, by rw [length_allSectors]; exact n.isLt, getElem_allSectors _, fun j hj => ?_⟩⟩
  · rintro ⟨i, hi, rfl, hno⟩ m hm
    rw [getElem_allSectors hi] at hm
    have := hno m.val hm
    rw [getElem_allSectors] at this
    rwa [Bool.not_eq_true'] at this
  · rw [getElem_allSectors, Bool.not_eq_true']
    exact h _ hj

theorem find?_allSectors_none {p : SectorNo → Bool} : allSectors.find? p = none ↔ ∀ m, p m = false := by
  rw [List.find?_eq_none]
  exact ⟨fun h m => Bool.eq_false_iff.2 (h m (mem_allSectors m)), fun h m _ => by rw [h m]; exact Bool.false_ne_true⟩

theorem State.findState_iff {s : State} {st : SectorState} {n : SectorNo} :
    s.space.findState st = some n ↔ (s.sector n).state = st ∧ ∀ m, m < n → (s.sector m).state ≠ st := by
  unfold Space.findState
  rw [find?_allSectors, beq_iff_eq]
  exact and_congr_right fun _ => forall₂_congr fun m _ => beq_eq_false_iff_ne

theorem State.findState_none {s : State} {st : SectorState} : s.space.findState st = none ↔ ∀ m, (s.sector m).state ≠ st := by
  unfold Space.findState
  rw [find?_allSectors_none]
  exact forall_congr' fun m => beq_eq_false_iff_ne

/-- What follows a change of the BLANK count: at most SPACE_LOW and the signal of the change (R72). -/
theorem State.blankMoved_eq (s : State) (k : Nat) : ∃ (f : Byte) (l : List Signal),
    s.blankMoved k = { s with win := { s.win with iflag := s.win.iflag ||| f }, agenda := s.agenda ++ l } ∧
      (l = [] ∨ l = [.blankChanged]) := by
  have hzero : s.win.iflag ||| 0 = s.win.iflag := BitVec.or_zero
  unfold State.blankMoved
  dsimp only
  by_cases hlow : s.win.lowmk < k ∧ s.space.blankCount ≤ s.win.lowmk <;> by_cases hk : s.space.blankCount = k
  · exact ⟨_, [], by rw [if_pos hlow, if_pos hk, List.append_nil]; rfl, .inl rfl⟩
  · exact ⟨_, _, by rw [if_pos hlow, if_neg hk]; rfl, .inr rfl⟩
  · exact ⟨0, [], by rw [if_neg hlow, if_pos hk, List.append_nil, hzero], .inl rfl⟩
  · exact ⟨0, _, by rw [if_neg hlow, if_neg hk, hzero]; rfl, .inr rfl⟩

/-- A change of an entry that neither was nor becomes BLANK: the entry, and of the reclaim engine the latch and the exclusion list. -/
theorem State.setSector_notBlank {s : State} {n : SectorNo} {e : SectorEntry} (hold : (s.sector n).state ≠ .blank)
    (hnew : e.state ≠ .blank) : s.setSector n e = { s.putSector n e with rcl := { s.rcl with
      noVictim := s.rcl.noVictim && !clearsLatch (s.sector n) e
      excluded := if (s.sector n).state = .full ∧ e.state ≠ .full then s.rcl.excluded.filter (fun x => x.sector != n)
        else s.rcl.excluded } } := by
  unfold State.setSector
  refine State.blankMoved_same ?_
  exact State.countState_putSector _ (by rw [beq_eq_false_iff_ne.2 hold, beq_eq_false_iff_ne.2 hnew])

/-! ### FORMAT -/

theorem State.sector_mark (s : State) (m : SectorNo) :
    s.space.mark.sectors[m] = if (s.sector m).state = .retired then s.sector m else (s.sector m).leaveUse .erasePending := by
  unfold Space.mark
  dsimp only
  rw [Fin.getElem_fin, Vector.getElem_map]
  rfl

/-- A BLANK count that has changed concerns no request of FORMAT. -/
theorem State.requestBlank_other {s : State} {r : Request} (hr : s.eng.req = some r) (hp : r.phase ≠ .waitSpace) :
    s.requestBlank = s := by
  unfold State.requestBlank
  rw [hr]
  exact if_neg fun h => hp h.1

/-- Settling where at most a change of the BLANK count is told, to a request that does not wait for space. -/
theorem State.settle_blankChanged {s : State} {r : Request} {l : List Signal} (ha : s.agenda = l) (hl : l = [] ∨ l = [.blankChanged])
    (hr : s.eng.req = some r) (hp : r.phase ≠ .waitSpace) : s.settle = ({ s with agenda := [] } : State).startTest := by
  rcases hl with rfl | rfl
  · rw [State.settle_nil ha, ← ha]
  · refine State.settle_one ha ?_ rfl
    exact State.requestBlank_other (s := { s with agenda := [] }) hr hp

theorem State.startTest_notReady {s : State} (h : s.eng.store ≠ .ready) : s.startTest = s := by
  unfold State.startTest
  rw [if_neg]
  intro hgo
  exact h (State.mayStart_iff.1 (Bool.and_eq_true_iff.1 hgo).1).2.1

theorem State.setStore_formatting {s : State} (h : s.eng.store ≠ .formatting) (hh : s.eng.store ≠ .halted) :
    s.setStore .formatting = { s with eng := { s.eng with store := .formatting }, win := s.win.raise .stateChg } := by
  unfold State.setStore
  rw [if_neg (fun hc => hc.elim h hh)]

/-- The state after MARK, with the latch and the exclusion list that it leaves (R140, R75). -/
def State.marked (s : State) (latch : Bool) (list : List Exclusion) : State :=
  { s with
    win := s.win.raise .stateChg
    eng := { s.eng with store := .formatting }
    idx := KeyIndex.reset
    classes := Vector.replicate 8 ClassEntry.default
    space := { s.space.mark with gen := s.space.gen + 1 }
    rcl := { s.rcl with stop := .format, noVictim := latch, excluded := list } }

/-- A FORMAT that is admitted with the reclaim engine IDLE marks at once. -/
theorem Request.startFormat_marked {r : Request} {s : State} (hgen : s.space.gen ≠ 65535) (hidle : s.rcl.phase = .idle)
    (hst : s.eng.store ≠ .formatting) (hh : s.eng.store ≠ .halted) :
    ∃ v x, r.startFormat s = r.formatNext ((s.marked v x).blankMoved s.space.blankCount) := by
  have hlimit : ¬ s.space.gen = Config.generationLimit := hgen
  unfold Request.startFormat
  dsimp only
  rw [if_neg hlimit, if_pos hidle]
  unfold Request.formatMark
  dsimp only
  rw [State.setStore_formatting (by exact hst) (by exact hh)]
  exact ⟨_, _, rfl⟩

/-- FORMAT takes a sector that it may erase: ERASING, with the reading of its erase mark granule claimed (R141, R68). -/
theorem Request.formatNext_erasing {r : Request} {t : State} {n : SectorNo} (hn : t.space.findState .erasePending = some n)
    (herase : (t.sector n).eraseCount < 100000) (hplane : (t.plane (planeOf n)).Idle) :
    ∃ v x, r.formatNext t = (({ t.putSector n ((t.sector n).leaveUse .erasing) with
      rcl := { t.rcl with noVictim := v, excluded := x } } : State).setPlane (planeOf n)
        ((t.plane (planeOf n)).withRun .request n 3 (.read 1))).setReq { r with phase := .fmtReadMark n } := by
  have hlimit : ¬ Config.eraseLimit ≤ (t.sector n).eraseCount := Nat.not_le.2 herase
  have hpending : (t.sector n).state = .erasePending := (State.findState_iff.1 hn).1
  unfold Request.formatNext
  rw [hn]
  dsimp only
  rw [if_neg hlimit]
  unfold State.sectorOut
  rw [State.setSector_notBlank (by rw [hpending]; exact fun h => nomatch h)
    (show SectorState.erasing ≠ .blank from fun h => nomatch h)]
  unfold State.claimRead
  rw [State.setReq_claim_idle (by exact hplane) rfl]
  exact ⟨_, _, rfl⟩

theorem SectorEntry.leaveUse_leaveUse (e : SectorEntry) (x y : SectorState) : (e.leaveUse x).leaveUse y = e.leaveUse y := rfl

/-- Settles O32: MARK, and the lowest sector that it leaves ERASE_PENDING taken at once. -/
theorem formatTaken : Obligations.FormatTaken := by
  unfold Obligations.FormatTaken
  intro s r h hrq ho
  have hexec := exec_format_due h ho hrq
  refine ⟨fun hgen => h.refused hexec (if_pos hgen), fun hgen hidle hst n hn hlow herase hplane => ?_⟩
  obtain ⟨v, x, hstart⟩ := Request.startFormat_marked (r := r) hgen hidle hst h.unhalted
  obtain ⟨f, l, hb, hl⟩ := (s.marked v x).blankMoved_eq s.space.blankCount
  rw [hstart, hb] at hexec
  generalize hu : ({ s.marked v x with win := _, agenda := _ } : State) = u at hexec
  have hsector : ∀ m, u.sector m = if (s.sector m).state = .retired then s.sector m else (s.sector m).leaveUse .erasePending := by
    intro m
    rw [← hu]
    exact s.sector_mark m
  have hfound : u.space.findState .erasePending = some n := by
    rw [State.findState_iff, hsector, if_neg hn]
    refine ⟨rfl, fun m hm => ?_⟩
    rw [hsector, if_pos (hlow m hm), hlow m hm]
    exact fun h => nomatch h
  have hsn : u.sector n = (s.sector n).leaveUse .erasePending := (hsector n).trans (if_neg hn)
  obtain ⟨v', x', hnext⟩ := Request.formatNext_erasing (r := r) hfound (by rw [hsn]; exact herase)
    (by rw [← hu]; exact hplane)
  rw [hnext, hsn, SectorEntry.leaveUse_leaveUse] at hexec
  generalize hw : State.setReq _ _ = w at hexec
  have hagenda : w.agenda = l := by
    rw [← hw, ← hu]
    cases planeOf n <;> exact (congrArg (· ++ l) h.quiet)
  have hreq : w.eng.req = some { r with phase := .fmtReadMark n } := by
    rw [← hw]
    rfl
  have hstore : w.eng.store = .formatting := by
    rw [← hw, ← hu]
    cases planeOf n <;> rfl
  rw [State.settle_blankChanged hagenda hl hreq (fun h => nomatch h),
    State.startTest_notReady (by exact fun h => nomatch hstore.symm.trans h)] at hexec
  have hws : ∀ m, w.sector m = if n = m then (s.sector n).leaveUse .erasing else u.sector m := fun m => by
    rw [← hw, ← State.sector_putSector]
    cases planeOf n <;> rfl
  have hflag : w.win.flag .stateChg = true := by
    have hiflag : w.win.iflag = (s.win.raise .stateChg).iflag ||| f := by
      rw [← hw, ← hu]
      cases planeOf n <;> rfl
    show w.win.iflag.getLsbD 5 = true
    rw [hiflag]
    show ((s.win.iflag ||| IntFlag.stateChg.mask) ||| f).getLsbD 5 = true
    rw [BitVec.getLsbD_or, BitVec.getLsbD_or, show IntFlag.stateChg.mask.getLsbD 5 = true from rfl, Bool.or_true, Bool.true_or]
  have hplane' : w.plane (planeOf n) = (s.plane (planeOf n)).withRun .request n 3 (.read 1) := by
    rw [← hw, ← hu]
    exact State.plane_setPlane_same ..
  have hother : ∀ q, q ≠ planeOf n → w.plane q = s.plane q := fun q hq => by
    rw [← hw, ← hu]
    exact State.plane_setPlane_ne _ hq _
  refine ⟨_, hexec, fun m hm => ?_, fun m hm => ?_, ?_⟩
  · have hne : n ≠ m := fun he => hn (he ▸ hm)
    exact (hws m).trans ((if_neg hne).trans ((hsector m).trans (if_pos hm)))
  · refine (hws m).trans ?_
    by_cases hm' : n = m
    · subst hm'
      rw [if_pos rfl, if_pos rfl]
      rfl
    · rw [if_neg hm', if_neg (Ne.symm hm'), hsector, if_neg hm]
      rfl
  · have hkept : s.win.HostKept w.win := by
      rw [← hw, ← hu]
      cases planeOf n <;> exact ⟨rfl, rfl, rfl, rfl, rfl, rfl, rfl, rfl⟩
    have hclasses : w.classes = Vector.replicate 8 ClassEntry.default := by
      rw [← hw, ← hu]
      cases planeOf n <;> rfl
    refine ⟨?_, fun c => ?_, ?_, hstore, hflag, hplane', hreq, ?_, ?_, ?_, ?_, ?_, ?_, ?_, ?_, hkept, ?_, ?_, ?_, ?_, hother⟩
    case refine_2 =>
      show w.classes[c] = _
      rw [hclasses]
      exact Vector.getElem_replicate ..
    case refine_15 =>
      refine Eq.trans ?_ hidle
      rw [← hw, ← hu]
      cases planeOf n <;> rfl
    all_goals
      rw [← hw, ← hu]
      cases planeOf n <;> rfl

end Sys2Proof.Machine

/-! PROOFS. The claims on the key index (chapter 5). -/

namespace Sys2Proof.Machine

set_option Elab.async false

/-! ### What a claim leaves a lookup -/

theorem lookup_entryUpdate {x y : KeyIndex} {key : Nat} {f : Entry → Entry} (hf : ∀ e, (f e).key = e.key)
    (he : y.entries = entryUpdate key f x.entries) (k : Nat) :
    y.lookup k = if k = key then (x.lookup key).map f else x.lookup k := by
  split
  · next h => rw [h, lookup_entryUpdate_same hf he]
  · next h => exact lookup_entryUpdate_ne hf he h

theorem lookup_entryInsert {e : Entry} (k : Nat) : ∀ {l : List Entry}, (∀ x ∈ l, x.key ≠ e.key) →
    (entryInsert e l).find? (fun x => x.key == k) = if k = e.key then some e else l.find? (fun x => x.key == k)
  | [], _ => by
    by_cases hk : k = e.key
    · simp [entryInsert, hk]
    · simp [entryInsert, hk, Ne.symm hk]
  | x :: l, h => by
    have hx : x.key ≠ e.key := h x List.mem_cons_self
    have ih := lookup_entryInsert (l := l) k fun y hy => h y (List.mem_cons_of_mem _ hy)
    unfold entryInsert
    by_cases hk : k = e.key
    · rw [if_pos hk] at ih ⊢
      split
      · exact List.find?_cons_of_pos (beq_iff_eq.2 hk.symm)
      · rw [List.find?_cons_of_neg (by rw [beq_iff_eq, hk]; exact hx), ih]
    · rw [if_neg hk] at ih ⊢
      split
      · exact List.find?_cons_of_neg (by rw [beq_iff_eq]; exact Ne.symm hk)
      · rw [List.find?_cons, List.find?_cons, ih]

theorem lookup_filter_ne {key : Nat} (k : Nat) (l : List Entry) :
    (l.filter (fun e => e.key != key)).find? (fun e => e.key == k) = if k = key then none else l.find? (fun e => e.key == k) := by
  rw [List.find?_filter]
  split
  · next h =>
    rw [List.find?_eq_none]
    intro e _
    simp [h]
  · next h =>
    congr 1
    funext e
    by_cases he : e.key = k
    · simp [he, h]
    · simp [he]

theorem KeyIndex.lookup_insert {x : KeyIndex} {e : Entry} (hl : x.lookup e.key = none) (hlen : x.entries.length < 1024) :
    x.insert e = ({ x with
      entries := entryInsert { e with moving := false } x.entries, counts := countUp x.counts e.cls }, .inserted) := by
  have hcap : ¬ Config.indexCapacity ≤ x.entries.length := Nat.not_le.2 hlen
  unfold KeyIndex.insert
  rw [if_neg hcap, hl]
  rfl

theorem KeyIndex.lookup_insert_entries {x y : KeyIndex} {e : Entry} (hl : x.lookup e.key = none)
    (hy : y.entries = entryInsert { e with moving := false } x.entries) (k : Nat) :
    y.lookup k = if k = e.key then some { e with moving := false } else x.lookup k := by
  unfold KeyIndex.lookup
  rw [hy]
  exact lookup_entryInsert (e := { e with moving := false }) k (KeyIndex.lookup_none hl)

theorem KeyIndex.replace_of_lookup {x : KeyIndex} {new old : Entry} (hl : x.lookup new.key = some old) :
    x.replace new = some { x with
      entries := entryUpdate new.key (fun e => e.take new) x.entries, counts := countMove x.counts old.cls new.cls } := by
  unfold KeyIndex.replace
  rw [hl]

theorem KeyIndex.remove_of_lookup {x : KeyIndex} {k : Nat} {old : Entry} (hl : x.lookup k = some old) :
    x.remove k = some { x with entries := x.entries.filter (fun e => e.key != k), counts := countDown x.counts old.cls } := by
  unfold KeyIndex.remove
  rw [hl]

theorem KeyIndex.relocate_of_lookup {x : KeyIndex} {k : Nat} {old : Entry} (hl : x.lookup k = some old) (copy : Place) :
    x.relocate k old.place copy = some { x with entries := entryUpdate k (fun e => { e with place := copy }) x.entries } := by
  unfold KeyIndex.relocate
  rw [hl]
  exact if_pos rfl

theorem KeyIndex.relocate_notCurrent {x : KeyIndex} {k : Nat} {at_ copy : Place} (h : ∀ old, x.lookup k = some old → old.place ≠ at_) :
    x.relocate k at_ copy = none := by
  unfold KeyIndex.relocate
  cases hl : x.lookup k with
  | none => rfl
  | some old => exact if_neg (h old hl)

theorem KeyIndex.markMoving_held {x : KeyIndex} {k : Nat} (h : x.hold = some k) (at_ : Place) : x.markMoving k at_ = (x, .held) := by
  unfold KeyIndex.markMoving KeyIndex.held
  exact if_pos (beq_iff_eq.2 h)

theorem KeyIndex.markMoving_free {x : KeyIndex} {k : Nat} (h : x.hold ≠ some k) (at_ : Place) :
    x.markMoving k at_ = match x.lookup k with
      | none => (x, .notCurrent)
      | some e =>
        if e.place = at_ then ({ x with entries := entryUpdate k (fun e => { e with moving := true }) x.entries }, .marked e)
        else (x, .notCurrent) := by
  unfold KeyIndex.markMoving KeyIndex.held
  exact if_neg fun hb => h (beq_iff_eq.1 hb)

theorem KeyIndex.markMoving_notCurrent {x : KeyIndex} {k : Nat} {at_ : Place} (h : x.hold ≠ some k)
    (hno : ∀ old, x.lookup k = some old → old.place ≠ at_) : x.markMoving k at_ = (x, .notCurrent) := by
  rw [KeyIndex.markMoving_free h]
  cases hl : x.lookup k with
  | none => rfl
  | some old => exact if_neg (hno old hl)

theorem KeyIndex.markMoving_marked {x : KeyIndex} {k : Nat} {old : Entry} (h : x.hold ≠ some k) (hl : x.lookup k = some old) :
    x.markMoving k old.place =
      ({ x with entries := entryUpdate k (fun e => { e with moving := true }) x.entries }, .marked old) := by
  rw [KeyIndex.markMoving_free h, hl]
  exact if_pos rfl

theorem KeyIndex.lookup_clearMoving (x : KeyIndex) (key k : Nat) :
    (x.clearMoving key).lookup k = if k = key then (x.lookup key).map (fun old => { old with moving := false }) else x.lookup k :=
  lookup_entryUpdate (f := fun old => { old with moving := false }) (fun _ => rfl) rfl k

/-- Settles O47, claim by claim. -/
theorem indexClaims : Obligations.IndexClaims := by
  unfold Obligations.IndexClaims
  intro x e k
  refine ⟨fun hl hlen => ?_, fun old hl => ?_, fun old hl => ?_, fun old hl => ?_, fun from_ hno => KeyIndex.relocate_notCurrent hno,
    KeyIndex.takeHold_unmarked, fun old hl hm => ?_, fun hh => KeyIndex.markMoving_held hh _, fun hh hno => KeyIndex.markMoving_notCurrent hh hno,
    fun old hh hl hp => ?_, ?_, rfl⟩
  · rw [KeyIndex.lookup_insert hl hlen]
    exact ⟨rfl, KeyIndex.lookup_insert_entries hl rfl k⟩
  · refine ⟨_, KeyIndex.replace_of_lookup hl, ?_⟩
    rw [lookup_entryUpdate (f := fun y => y.take e) (fun _ => rfl) rfl, hl]
    rfl
  · exact ⟨_, KeyIndex.remove_of_lookup hl, lookup_filter_ne k x.entries⟩
  · refine ⟨_, KeyIndex.relocate_of_lookup hl e.place, rfl, ?_⟩
    rw [lookup_entryUpdate (f := fun y => { y with place := e.place }) (fun _ => rfl) rfl, hl]
    rfl
  · unfold KeyIndex.takeHold
    rw [hl]
    exact if_pos hm
  · rw [← hp]
    refine ⟨_, KeyIndex.markMoving_marked hh hl, rfl, ?_⟩
    rw [lookup_entryUpdate (f := fun y => { y with moving := true }) (fun _ => rfl) rfl, hl]
    rfl
  · rw [KeyIndex.lookup_clearMoving]
    split
    · next h => rw [h]
    · rfl

/-! ### Successor -/

/-- In a list in ascending order of keys the first entry that qualifies is the one of the smallest key. -/
theorem find?_ascending {p : Entry → Bool} {e : Entry} : ∀ {l : List Entry}, l.Pairwise (fun a b => a.key < b.key) →
    (l.find? p = some e ↔ e ∈ l ∧ p e = true ∧ ∀ f ∈ l, p f = true → e.key ≤ f.key)
  | [], _ => by simp
  | x :: l, h => by
    obtain ⟨hx, hl⟩ := List.pairwise_cons.1 h
    cases hp : p x
    · rw [List.find?_cons_of_neg (by rw [hp]; exact Bool.false_ne_true), find?_ascending hl]
      have hne : p e = true → e ≠ x := fun he hex => by rw [hex, hp] at he; exact Bool.false_ne_true he
      constructor
      · rintro ⟨hm, he, hmin⟩
        refine ⟨List.mem_cons_of_mem _ hm, he, fun f hf hpf => ?_⟩
        rcases List.mem_cons.1 hf with rfl | hf
        · exact absurd (hp.symm.trans hpf) Bool.false_ne_true
        · exact hmin f hf hpf
      · rintro ⟨hm, he, hmin⟩
        exact ⟨(List.mem_cons.1 hm).resolve_left (hne he), he, fun f hf => hmin f (List.mem_cons_of_mem _ hf)⟩
    · rw [List.find?_cons_of_pos hp, Option.some_inj]
      constructor
      · rintro rfl
        refine ⟨List.mem_cons_self, hp, fun f hf _ => ?_⟩
        rcases List.mem_cons.1 hf with rfl | hf
        · exact Nat.le_refl _
        · exact Nat.le_of_lt (hx f hf)
      · rintro ⟨hm, -, hmin⟩
        rcases List.mem_cons.1 hm with rfl | hm
        · rfl
        · exact absurd (hmin x List.mem_cons_self hp) (Nat.not_le.2 (hx e hm))

theorem Entry.selected_iff {e : Entry} {mask : Byte} {system : Bool} : e.selected mask system = true ↔
    (∃ _ : e.cls < 8, mask.getLsbD e.cls = true) ∨ (e.cls = 15 ∧ system = true) := by
  unfold Entry.selected
  rw [Bool.or_eq_true, Bool.and_eq_true, Bool.and_eq_true, decide_eq_true_iff, beq_iff_eq, exists_prop, Nat.lt_succ_iff]

/-- Settles O48: the entries of a sound index ascend. -/
theorem successorSmallest : Obligations.SuccessorSmallest := by
  unfold Obligations.SuccessorSmallest
  intro x start mask system hs matching
  have hmatch : ∀ e, (decide (start < e.key) && e.selected mask system) = true ↔ matching e := fun e => by
    rw [Bool.and_eq_true, decide_eq_true_iff, Entry.selected_iff]
  unfold KeyIndex.successor
  refine ⟨fun e => ?_, ?_⟩
  · rw [find?_ascending ((entriesAscend_iff _).1 hs.1)]
    simp only [hmatch]
  · rw [List.find?_eq_none]
    simp only [hmatch]

end Sys2Proof.Machine

/-! PROOFS. The answers that end a READ, a write and a DELETE, and the ends of hidden requests (chapters 2, 6 and 7). -/

namespace Sys2Proof.Machine

set_option Elab.async false

/-! ### An answer to the ACTIVE request -/

/-- What an answer makes of a request that the store state and no abort turn aside. -/
def Request.liveAnswer (r : Request) (s : State) (a : Answer) : State :=
  match r.phase, r.entry, r.job.place with
  | .transfer, some e, _ => match a with
    | .bytes d => r.readDone e d s
    | .erasing => r.readErasing e s
    | _ => s
  | .opening n q, _, _ => r.openingAnswer n q a s
  | .descriptor, _, some p => match a with
    | .done _ => r.payloadStep p s
    | .fault _ => r.recordFaulted p s
    | _ => s
  | .payload, _, some p => match a with
    | .done _ => r.commitStep p s
    | .fault _ => r.recordFaulted p s
    | _ => s
  | .commit, _, some p => match a with
    | .done _ => r.commitDone p s
    | .fault _ => r.recordFaulted p s
    | _ => s
  | .retireOld, some e, some p => r.retireOldAnswer p e a s
  | .retireNew, _, some p => r.retireNewAnswer p a s
  | .retire, some e, _ => r.retireAnswer e a s
  | _, _, _ => r.formatAnswer a s

theorem State.deliver_request {s : State} {r : Request} (hr : s.eng.req = some r) (hst : s.eng.store ≠ .halted)
    (hab : r.aborting = false) (a : Answer) : s.deliver (.answer .request a) = r.liveAnswer s a := by
  show s.requestAnswer a = _
  unfold State.requestAnswer
  rw [hr]
  dsimp only
  rw [if_neg hst, hab, if_neg Bool.false_ne_true]
  rfl

section Answers
variable {r : Request} {s : State} {p : Place} {e : Entry}

theorem Request.liveAnswer_transfer (hp : r.phase = .transfer) (he : r.entry = some e) (d : List Byte) :
    r.liveAnswer s (.bytes d) = r.readDone e d s := by
  unfold Request.liveAnswer
  rw [hp, he]

theorem Request.liveAnswer_commit (hp : r.phase = .commit) (hj : r.job.place = some p) (n : Nat) :
    r.liveAnswer s (.done n) = r.commitDone p s := by
  unfold Request.liveAnswer
  rw [hp, hj]

/-- A fault of any of the three runs of a record (R127). -/
theorem Request.liveAnswer_recordFault (hp : r.phase = .descriptor ∨ r.phase = .payload ∨ r.phase = .commit)
    (hj : r.job.place = some p) (n : Nat) : r.liveAnswer s (.fault n) = r.recordFaulted p s := by
  unfold Request.liveAnswer
  rcases hp with hp | hp | hp <;> rw [hp, hj]

theorem Request.liveAnswer_retireOld (hp : r.phase = .retireOld) (he : r.entry = some e) (hj : r.job.place = some p) (a : Answer) :
    r.liveAnswer s a = r.retireOldAnswer p e a s := by
  unfold Request.liveAnswer
  rw [hp, he, hj]

theorem Request.liveAnswer_retireNew (hp : r.phase = .retireNew) (hj : r.job.place = some p) (a : Answer) :
    r.liveAnswer s a = r.retireNewAnswer p a s := by
  unfold Request.liveAnswer
  rw [hp, hj]

theorem Request.liveAnswer_retire (hp : r.phase = .retire) (he : r.entry = some e) (a : Answer) :
    r.liveAnswer s a = r.retireAnswer e a s := by
  unfold Request.liveAnswer
  rw [hp, he]

end Answers

/-- The state once the run of a plane has ended that leaves nothing in hand there, and flash reads as given. -/
def State.afterRun (s : State) (p : PlaneId) (flash : List Host.Cell) : State :=
  { s.setPlane p { s.plane p with run := none } with flash := flash }

theorem State.afterRun_agenda (s : State) (p : PlaneId) (f : List Host.Cell) : (s.afterRun p f).agenda = s.agenda := by
  cases p <;> rfl

theorem State.afterRun_flash (s : State) (p : PlaneId) (f : List Host.Cell) : (s.afterRun p f).flash = f := by
  cases p <;> rfl

theorem State.afterRun_slot (s : State) (p : PlaneId) (f : List Host.Cell) (n : SlotNo) : (s.afterRun p f).slot n = s.slot n := by
  cases p <;> rfl

theorem State.afterRun_win (s : State) (p : PlaneId) (f : List Host.Cell) : (s.afterRun p f).win = s.win := by
  cases p <;> rfl

theorem State.afterRun_eng (s : State) (p : PlaneId) (f : List Host.Cell) : (s.afterRun p f).eng = s.eng := by
  cases p <;> rfl

theorem State.afterRun_idx (s : State) (p : PlaneId) (f : List Host.Cell) : (s.afterRun p f).idx = s.idx := by
  cases p <;> rfl

theorem State.afterRun_rcl (s : State) (p : PlaneId) (f : List Host.Cell) : (s.afterRun p f).rcl = s.rcl := by
  cases p <;> rfl

theorem State.afterRun_classes (s : State) (p : PlaneId) (f : List Host.Cell) : (s.afterRun p f).classes = s.classes := by
  cases p <;> rfl

theorem State.afterRun_sector (s : State) (p : PlaneId) (f : List Host.Cell) (n : SectorNo) : (s.afterRun p f).sector n = s.sector n := by
  cases p <;> rfl

theorem State.setPlane_same (s : State) (p : PlaneId) : s.setPlane p (s.plane p) = s := by
  cases p <;> rfl

/-! ### READ -/

/-- A read run with no stop asked that ends on a plane with nothing else in hand brings all its bytes. -/
theorem exec_readRunDone_bytes {s : State} {p : PlaneId} {u : Run} {count : Nat} (ha : s.agenda = []) (hu : (s.plane p).run = some u)
    (hw : u.claim.work = .read count) (h5 : u.claim.first + count ≤ 512) (hs : u.stop = false)
    (hi : ({ s.plane p with run := none } : Plane).Idle) (n : Nat) :
    exec (.readRunDone p n) s = .next ((((s.afterRun p s.flash).deliver (.answer u.claim.who
      (.bytes (flashRead s.flash u.claim.sector (8 * u.claim.first) (8 * count))))).drain 255).startTest) := by
  have hpast : ¬ Config.granulesPerSector < u.claim.first + count := Nat.not_lt.2 h5
  show execReadRunDone p n s = _
  unfold execReadRunDone
  rw [hu]
  dsimp only
  rw [hw]
  dsimp only
  rw [if_neg hpast, State.runEnded_eq ha, Plane.finishRun_idle hi]
  have hanswer : s.readAnswer (s.plane p).halted u count n =
      .bytes (flashRead s.flash u.claim.sector (8 * u.claim.first) (8 * count)) := by
    unfold State.readAnswer
    rw [show (s.plane p).halted = false from hi.2.2.2.2, hs]
    rfl
  rw [hanswer]
  cases p <;> rfl

/-- The payload that a READ's run brings, byte by byte. -/
theorem getD_payload {m : List Host.Cell} {n : SectorNo} {o len i : Nat} (hi : i < len) :
    (((flashRead m n o (8 * (3 + (len + 7) / 8))).drop 24).take len).getD i 0 = flashByte m n (o + 24 + i) := by
  rw [List.getD_eq_getElem?_getD, List.getElem?_take, if_pos hi, List.getElem?_drop, ← List.getD_eq_getElem?_getD,
    getD_flashRead _ _ _ (by omega), Nat.add_assoc]

theorem length_payload {m : List Host.Cell} {n : SectorNo} {o len : Nat} :
    (((flashRead m n o (8 * (3 + (len + 7) / 8))).drop 24).take len).length = len := by
  rw [List.length_take, List.length_drop, length_flashRead]
  omega

theorem bump_eq (n : Nat) : bump n = if n < 65535 then n + 1 else n := rfl

/-- Settles O23: the payload is delivered, and the run-time check decides the code. -/
theorem readRunCompletes : Obligations.ReadRunCompletes := by
  unfold Obligations.ReadRunCompletes
  intro s r e p u n h hst hp he hab hc hs hlen h512 hu hi data f
  have hlen256 : ((data.drop 24).take e.length).length ≤ 256 := by
    rw [length_payload]
    omega
  have hexec := exec_readRunDone_bytes (count := 3 + (e.length + 7) / 8) h.quiet hu (by rw [hc]) (by rw [hc]; dsimp only; omega) hs hi n
  rw [hc] at hexec
  dsimp only at hexec
  rw [State.deliver_request (by rw [State.afterRun_eng]; exact h.active) (by rw [State.afterRun_eng]; exact hst) hab,
    Request.liveAnswer_transfer hp he] at hexec
  refine ⟨_, ((s.slot r.slot).fillBuffer ((data.drop 24).take e.length)).buffer, hexec, fun i => ?_, ?_⟩
  · rw [Slot.cellGet_fillBuffer hlen256, length_payload]
    split
    · next hi => exact getD_payload hi
    · rfl
  · intro base
    have hbase : r.deliver e data (s.afterRun p s.flash) = base := by
      unfold Request.deliver
      rw [State.afterRun_slot]
      cases p <;> rfl
    have heng : base.eng = s.eng := by
      cases p <;> rfl
    have hended : ∀ c code, { base with eng := { s.eng with corruptReads := c } }.Ended
        (({ base with eng := { s.eng with corruptReads := c } }.endRequest r code f).drain 255).startTest r.slot code f r.flags := by
      intro c code
      have hslot : (base.slot r.slot).hidden = false := by
        show ((State.setSlot _ _ _).slot r.slot).hidden = false
        rw [State.slot_setSlot_same]
        exact h.visible
      refine State.endRequest_drain_ended (s := { base with eng := { s.eng with corruptReads := c } }) ?_ ?_ ?_ hslot ?_ 254
      · cases p <;> exact h.quiet
      · cases p <;> exact h.noHold
      · cases p <;> exact h.noWaiter
      · cases p <;> exact h.notQueued
    have hdone : r.readDone e data (s.afterRun p s.flash) = if recordPasses data e then base.endRequest r .ok f
        else { base with eng := { base.eng with corruptReads := bump base.eng.corruptReads } }.endRequest r .corrupt f := by
      rw [← hbase]
      rfl
    rw [hdone]
    by_cases hpass : recordPasses data e = true
    · rw [if_pos hpass, if_pos hpass]
      have hsame : { base with eng := { s.eng with corruptReads := s.eng.corruptReads } } = base := by
        rw [← heng]
      exact hsame ▸ hended s.eng.corruptReads .ok
    · rw [if_neg hpass, if_neg hpass, heng, bump_eq]
      exact hended _ .corrupt

/-! ### The retire runs -/

/-- A run that retires a record at granule `g` of sector `n`, its one granule in progress (R50). -/
def retireRunOf (who : Claimant) (n : SectorNo) (g : Nat) : Run :=
  { claim := { who := who, sector := n, first := g, work := .program markGranule .notErased }, done := 0, stop := false }

/-- The last granule of a program run verifies and the plane grants nothing at its end: the claimant is answered DONE. -/
theorem exec_granule_last {s : State} {p : PlaneId} {u : Run} {data : List Byte} {mode : Verify} (ha : s.agenda = [])
    (hu : (s.plane p).run = some u) (hw : u.claim.work = .program data mode) (h5 : u.claim.first + u.done < 512)
    (hl : data.length / 8 ≤ u.done + 1) (hs : u.stop = false)
    (hv : verifies mode (granuleData data u.done) (programmed (s.granuleAt u.claim u.done) (granuleData data u.done)) = true)
    (hi : ∀ k, (s.plane p).finishRun k = { s.plane p with run := none }) :
    exec (.granuleProgramDone p none) s = .next ((((s.afterRun p (flashWrite s.flash u.claim.sector (8 * (u.claim.first + u.done))
      (programmed (s.granuleAt u.claim u.done) (granuleData data u.done)))).deliver
        (.answer u.claim.who (.done (data.length / 8)))).drain 255).startTest) := by
  show execGranuleProgramDone p none s = _
  unfold execGranuleProgramDone
  rw [hu]
  dsimp only
  rw [hw]
  dsimp only [Option.getD]
  rw [if_neg (show ¬ Config.granulesPerSector ≤ u.claim.first + u.done from Nat.not_le.2 h5), if_pos hv]
  unfold State.granuleVerified
  rw [hs, Bool.false_and, if_neg Bool.false_ne_true, if_pos hl, State.setGranule_eq, State.runEnded_eq (by exact ha)]
  generalize flashWrite _ _ _ _ = m
  rw [show ({ s with flash := m } : State).plane p = s.plane p by cases p <;> rfl, hi]
  cases p <;> rfl

theorem programmed_zeros {l : List Byte} (h : l.length = 8) : programmed l markGranule = markGranule := by
  refine List.ext_getElem (length_programmed h rfl) fun i h1 h2 => ?_
  simp only [programmed, markGranule, List.getElem_zipWith, List.getElem_replicate]
  exact BitVec.and_zero

theorem flashByte_markGranule {m : List Host.Cell} {n : SectorNo} {g : Nat} (hg : g < 512) (k : SectorNo) {o : Nat} (ho : o < 4096) :
    flashByte (flashWrite m n (8 * g) markGranule) k o =
      if k = n ∧ 8 * g ≤ o ∧ o < 8 * g + 8 then 0 else flashByte m k o := by
  have hlen : markGranule.length = 8 := rfl
  rw [flashByte_flashWrite (by omega) k ho, hlen]
  refine if_ctx_congr Iff.rfl (fun h => ?_) (fun _ => rfl)
  exact List.getD_replicate _ (by omega)

/-- The retire run of a record verifies: the granule reads zero, and the claimant is answered DONE. -/
theorem exec_retireRun {s : State} {p : PlaneId} {who : Claimant} {n : SectorNo} {g : Nat} (ha : s.agenda = [])
    (hu : (s.plane p).run = some (retireRunOf who n g)) (h5 : g < 512) (hi : ({ s.plane p with run := none } : Plane).Idle) :
    ∃ m, (∀ k o, o < 4096 → flashByte m k o = if k = n ∧ 8 * g ≤ o ∧ o < 8 * g + 8 then 0 else flashByte s.flash k o) ∧
      exec (.granuleProgramDone p none) s = .next ((((s.afterRun p m).deliver (.answer who (.done 1))).drain 255).startTest) := by
  refine ⟨flashWrite s.flash n (8 * g) markGranule, fun k o ho => flashByte_markGranule h5 k ho, ?_⟩
  have hold : (s.granuleAt (retireRunOf who n g).claim 0).length = 8 := length_flashRead ..
  have hprog : programmed (s.granuleAt (retireRunOf who n g).claim 0) (granuleData markGranule 0) = markGranule :=
    programmed_zeros hold
  have hverifies : verifies .notErased (granuleData markGranule 0)
      (programmed (s.granuleAt (retireRunOf who n g).claim 0) (granuleData markGranule 0)) = true := by
    rw [hprog]
    rfl
  have hlast := exec_granule_last ha hu (data := markGranule) (mode := .notErased) rfl h5 (show markGranule.length / 8 ≤ 0 + 1 by decide) rfl
    hverifies
    (Plane.finishRun_idle hi)
  rw [show (retireRunOf who n g).done = 0 from rfl, hprog, show markGranule.length / 8 = 1 from rfl] at hlast
  exact hlast

/-- An effective retire changes the entry of its sector, and the latch where a sector that is FULL gains stale bytes (R64, R161). -/
theorem State.recordRetired_eq (s : State) (n : SectorNo) {fp : Nat} (h : 0 < fp) :
    s.recordRetired n fp = { s.putSector n ((s.sector n).makeStale fp) with
      rcl := { s.rcl with noVictim := s.rcl.noVictim && (s.sector n).state != .full } } := by
  unfold State.recordRetired
  rw [State.setSector_state (e := (s.sector n).makeStale fp) rfl, clearsLatch_makeStale _ h]
  rfl

theorem footprint_pos (len : Nat) : 0 < footprint len := by
  unfold footprint
  omega

/-- A commit counted live changes the entry of its sector alone (R64). -/
theorem State.recordLive_eq (s : State) (n : SectorNo) (fp : Nat) : s.recordLive n fp = s.putSector n ((s.sector n).makeLive fp) :=
  State.setSector_same rfl (clearsLatch_makeLive ..)

/-- The rest of a step whose answer ends the request, named `t`. -/
theorem State.run_ended {s s₀ : State} {i : Instr} {r : Request} {code : ResultCode} {f : ResultFields}
    (hexec : exec i s₀ = .next (((s.endRequest r code f).drain 255).startTest)) (ha : s.agenda = [])
    (hact : s.idx.hold ≠ none → s.rcl.act ≠ .heldWait) (hv : (s.slot r.slot).hidden = false) (hn : r.slot ∉ s.win.queue) :
    ∃ t, exec i s₀ = .next t ∧ ({ s with idx := s.idx.freed } : State).Ended t r.slot code f r.flags := by
  rw [State.endRequest_drain r code f ha hact 253] at hexec
  exact ⟨_, hexec, State.ending_ended r code f ha hv hn⟩

/-- The rest of a step whose answer tells nothing to others, named `t`. -/
theorem State.run_becomes {s s₀ : State} {i : Instr} (hexec : exec i s₀ = .next ((s.drain 255).startTest)) (ha : s.agenda = []) :
    ∃ t, exec i s₀ = .next t ∧ s.Becomes t := by
  rw [State.drain_nil ha] at hexec
  exact ⟨_, hexec, State.startTest_becomes s⟩

/-! ### DELETE -/

/-- The state in which a DELETE whose retire was effective ends (R132). -/
def State.deleted (s : State) (e : Entry) : State :=
  { s.putSector e.place.sector ((s.sector e.place.sector).makeStale (footprint e.length)) with
    rcl := { s.rcl with noVictim := s.rcl.noVictim && (s.sector e.place.sector).state != .full }
    idx := { s.idx with
      entries := s.idx.entries.filter (fun f => f.key != e.key), counts := countDown s.idx.counts e.cls } }

section Deleted
variable (s : State) (e : Entry)

theorem State.deleted_agenda : (s.deleted e).agenda = s.agenda := rfl
theorem State.deleted_slot (n : SlotNo) : (s.deleted e).slot n = s.slot n := rfl
theorem State.deleted_win : (s.deleted e).win = s.win := rfl
theorem State.deleted_act : (s.deleted e).rcl.act = s.rcl.act := rfl
theorem State.deleted_flash : (s.deleted e).flash = s.flash := rfl

end Deleted

theorem Request.removed_eq {r : Request} {t : State} {e : Entry} {y : KeyIndex} (h : t.idx.remove e.key = some y) :
    r.removed e t = { t with idx := y }.endRequest r .ok e.fields := by
  unfold Request.removed
  rw [h]
  rfl

theorem Request.retireAnswer_done {r : Request} {s : State} {e : Entry} (hl : s.idx.lookup e.key = some e) (n : Nat) :
    r.retireAnswer e (.done n) s = (s.deleted e).endRequest r .ok e.fields := by
  show r.removed e (s.recordRetired e.place.sector (footprint e.length)) = _
  rw [State.recordRetired_eq _ _ (footprint_pos _), Request.removed_eq (by exact KeyIndex.remove_of_lookup hl)]
  rfl

/-- Settles O34. -/
theorem deleteRemoves : Obligations.DeleteRemoves := by
  unfold Obligations.DeleteRemoves
  intro s r e p u hr ha hv hn hst hp hab he hl hh hw hact hu h5 hrun hi fp x
  obtain ⟨m, hm, hexec⟩ := exec_retireRun ha (hrun.trans (congrArg some hu)) h5 hi
  have hst' : s.eng.store ≠ .halted := by
    rw [hst]
    exact fun h => nomatch h
  rw [State.deliver_request (by rw [State.afterRun_eng]; exact hr) (by rw [State.afterRun_eng]; exact hst') hab,
    Request.liveAnswer_retire hp he, Request.retireAnswer_done (by rw [State.afterRun_idx]; exact hl)] at hexec
  obtain ⟨t, hexec, hend⟩ := State.run_ended hexec (by rw [State.deleted_agenda, State.afterRun_agenda, ha])
    (fun _ => by rw [State.deleted_act, State.afterRun_rcl]; exact hact) (by rw [State.deleted_slot, State.afterRun_slot, hv])
    (by rw [State.deleted_win, State.afterRun_win]; exact hn)
  have hflash : t.flash = m := hend.kept.flash.trans (s.afterRun_flash p m)
  refine ⟨t, hexec, fun k o ho => ?_, ?_⟩
  · rw [hflash]
    exact hm k o ho
  · intro base
    rw [hflash]
    refine cast (congrArg (fun x => State.Ended x t _ _ _ _) ?_) hend
    cases p <;> rfl

end Sys2Proof.Machine

/-! PROOFS. The end of a hidden request, and the publishing of a record (sections 6.8 and 7.3). -/

namespace Sys2Proof.Machine

set_option Elab.async false

/-! ### The end of a hidden request -/

theorem Reclaim.StartedFrom.trans {x y z : Reclaim} (h : x.StartedFrom y) (k : y.StartedFrom z) : x.StartedFrom z := by
  rcases h with rfl | ⟨hi, rfl⟩
  · exact k
  · rcases k with rfl | ⟨hp, -⟩
    · exact .inr ⟨hi, rfl⟩
    · exact nomatch hp

theorem Window.HostKept.trans {w v u : Window} (h : w.HostKept v) (k : v.HostKept u) : w.HostKept u where
  sel := k.sel.trans h.sel
  imask := k.imask.trans h.imask
  fault := k.fault.trans h.fault
  lowmk := k.lowmk.trans h.lowmk
  suslim := k.suslim.trans h.suslim
  wearsp := k.wearsp.trans h.wearsp
  mode := k.mode.trans h.mode
  busOut := k.busOut.trans h.busOut

theorem State.Kept.trans {s t u : State} (h : s.Kept t) (k : t.Kept u) : s.Kept u where
  host := h.host.trans k.host
  store := k.store.trans h.store
  writeSeq := k.writeSeq.trans h.writeSeq
  corruptReads := k.corruptReads.trans h.corruptReads
  idx := k.idx.trans h.idx
  classes := k.classes.trans h.classes
  space := k.space.trans h.space
  rcl := h.rcl.trans k.rcl
  pl0 := k.pl0.trans h.pl0
  pl1 := k.pl1.trans h.pl1
  faults := k.faults.trans h.faults
  mnt := k.mnt.trans h.mnt
  halted := k.halted.trans h.halted
  resetLow := k.resetLow.trans h.resetLow
  flash := k.flash.trans h.flash
  agenda := k.agenda.trans h.agenda
  pending := k.pending.trans h.pending

/-- What the ending step and the taking of the head make of the hidden slot `n` (R112), seen from `s`. -/
structure State.HiddenEnd (s t : State) (n : SlotNo) (x : Slot) : Prop where
  slot : t.slot n = { x with state := .free, hidden := false, ptr := 0 }
  iflag : t.win.iflag = s.win.iflag
  onward : s.WentOn t n

theorem State.endWin_hidden {s : State} {r : Request} (hv : (s.slot r.slot).hidden = true) (code : ResultCode) (f : ResultFields) :
    s.endWin r code f =
      { s.win with slots := s.win.slots.set r.slot { s.slot r.slot with state := .free, hidden := false, ptr := 0 } } :=
  if_pos hv

/-- The end of a hidden request in `u`, a state that differs from `s` in no slot but the request's and neither in the queue, in IFLAG nor in
the store state. -/
theorem State.ending_hidden {s u : State} {r : Request} (code : ResultCode) (f : ResultFields) (hv : (u.slot r.slot).hidden = true)
    (hn : r.slot ∉ s.win.queue) (hq : u.win.queue = s.win.queue) (hi : u.win.iflag = s.win.iflag) (hst : u.eng.store = s.eng.store)
    (ho : ∀ m, m ≠ r.slot → u.slot m = s.slot m) :
    s.HiddenEnd (u.ending r code f).takeHead.startTest r.slot (u.slot r.slot) ∧
      ({ u with idx := u.idx.freed } : State).Kept (u.ending r code f).takeHead.startTest := by
  have hwin : (u.ending r code f).win = _ := State.endWin_hidden hv code f
  have hslot : ∀ m, (u.ending r code f).slot m =
      if m = r.slot then { u.slot r.slot with state := .free, hidden := false, ptr := 0 } else u.slot m := fun m => by
    rw [← State.slot_set]
    show (u.ending r code f).win.slots[m] = _
    rw [hwin]
    rfl
  obtain ⟨hon, hsame, hiflag, hkept⟩ := State.takeHead_wentOn (s := s) (t := u.ending r code f) (n := r.slot) rfl hst
    (by rw [hwin]; exact hq) hn (fun m hm => by rw [hslot, if_neg hm, ho m hm])
  refine ⟨⟨?_, ?_, ?_, fun m hm => ?_, ?_⟩, ?_⟩
  · rw [State.startTest_slot, hsame, hslot, if_pos rfl]
  · rw [State.startTest_win, hiflag, hwin]
    exact hi
  · rw [State.startTest_win]
    exact hon.queue
  · rw [State.startTest_slot]
    exact hon.others m hm
  · rw [State.startTest_eng]
    exact hon.next
  · have hfirst : ({ u with idx := u.idx.freed } : State).Kept (u.ending r code f) := by
      refine ⟨?_, rfl, rfl, rfl, rfl, rfl, rfl, .inl rfl, rfl, rfl, rfl, rfl, rfl, rfl, rfl, rfl, rfl⟩
      rw [hwin]
      exact ⟨rfl, rfl, rfl, rfl, rfl, rfl, rfl, rfl⟩
    exact (hfirst.trans hkept).trans (State.startTest_kept _)

theorem KeyIndex.freed_of_none {x : KeyIndex} (hh : x.hold = none) (hw : x.waiter = none) : x.freed = x := by
  obtain ⟨entries, counts, hold, waiter⟩ := x
  subst hh
  subst hw
  rfl

/-- A hidden request at its taking that holds nothing ends in its row. -/
theorem State.settle_hidden {s u : State} {r : Request} (code : ResultCode) (f : ResultFields) (ha : u.agenda = [])
    (hh : u.idx.hold = none) (hw : u.idx.waiter = none) (hv : (u.slot r.slot).hidden = true)
    (hn : r.slot ∉ s.win.queue) (hq : u.win.queue = s.win.queue) (hi : u.win.iflag = s.win.iflag) (hst : u.eng.store = s.eng.store)
    (ho : ∀ m, m ≠ r.slot → u.slot m = s.slot m) :
    s.HiddenEnd (u.endRequest r code f).settle r.slot (u.slot r.slot) ∧ u.Kept (u.endRequest r code f).settle := by
  rw [State.settle, settleFuel, State.endRequest_drain r code f ha (fun hne => absurd hh hne)]
  obtain ⟨hend, hkept⟩ := State.ending_hidden (s := s) code f hv hn hq hi hst ho
  rw [KeyIndex.freed_of_none hh hw] at hkept
  exact ⟨hend, hkept⟩

/-- A hidden request that has filled its buffer first. -/
theorem State.filled_hidden {s : State} {r : Request} (bs : List Byte) (code : ResultCode) (f : ResultFields) (ha : s.agenda = [])
    (hh : s.idx.hold = none) (hw : s.idx.waiter = none) (hv : (s.slot r.slot).hidden = true) (hn : r.slot ∉ s.win.queue) :
    let t := ((s.setSlot r.slot ((s.slot r.slot).fillBuffer bs)).endRequest r code f).settle
    s.HiddenEnd t r.slot ((s.slot r.slot).fillBuffer bs) ∧ s.Kept t := by
  have hslot := s.slot_setSlot_same r.slot ((s.slot r.slot).fillBuffer bs)
  obtain ⟨hend, hkept⟩ := State.settle_hidden (s := s) (u := s.setSlot r.slot ((s.slot r.slot).fillBuffer bs)) (r := r)
    code f ha hh hw (by rw [hslot]; exact hv) hn rfl rfl rfl (fun m hm => s.slot_setSlot_ne hm.symm _)
  have hfirst : s.Kept (s.setSlot r.slot ((s.slot r.slot).fillBuffer bs)) :=
    ⟨⟨rfl, rfl, rfl, rfl, rfl, rfl, rfl, rfl⟩, rfl, rfl, rfl, rfl, rfl, rfl, .inl rfl, rfl, rfl, rfl, rfl, rfl, rfl, rfl, rfl, rfl⟩
  rw [hslot] at hend
  exact ⟨hend, hfirst.trans hkept⟩

/-- Settles O20: the row of REPORT and of FIND_NEXT, and the answer to a DELETE's retire, each with the slot hidden. -/
theorem hiddenRequestEnds : Obligations.HiddenRequestEnds := by
  unfold Obligations.HiddenRequestEnds
  intro s r hr ha hw hn hv
  refine ⟨fun ht hst hh ho => ⟨fun hrq => ?_, fun hrq => ?_⟩, fun e p u hp hab hst he hl hh hact hu h5 hrun hi => ?_⟩
  · have hok : r.params.isCode codeReport = true := Params.isCode_of hrq (by decide) (by decide) ho
    have hexec : exec .report s = .next (r.startReport s).settle := congrArg Host.Outcome.next (State.serve_active hr ht hst hok)
    have hlen := s.length_reportBytes
    unfold Request.startReport at hexec
    generalize s.reportBytes = bs at hexec hlen ⊢
    obtain ⟨hend, hkept⟩ := State.filled_hidden (s := s) (r := r) bs .ok { ResultFields.zero with length := 40 } ha hh hw hv hn
    refine ⟨_, ((s.slot r.slot).fillBuffer bs).buffer, hexec, hend.slot, fun i => ?_, hend.iflag, hend.onward, hkept⟩
    rw [Slot.cellGet_fillBuffer (by omega), hlen]
  · have hok : r.params.isCode codeFindNext = true := Params.isCode_of hrq (by decide) (by decide) ho
    have hexec : exec .findNext s = .next (r.startFindNext s).settle := congrArg Host.Outcome.next (State.serve_active hr ht hst hok)
    obtain ⟨code, f, hstart⟩ : ∃ code f, r.startFindNext s = s.endRequest r code f := by
      unfold Request.startFindNext
      split
      · exact ⟨_, _, rfl⟩
      · split
        · exact ⟨_, _, rfl⟩
        · split
          · exact ⟨_, _, rfl⟩
          · exact ⟨_, _, rfl⟩
    obtain ⟨hend, hkept⟩ := State.settle_hidden (s := s) (u := s) code f ha hh hw hv hn rfl rfl rfl (fun _ _ => rfl)
    rw [hstart] at hexec
    exact ⟨_, hexec, hend.slot, hend.iflag, hend.onward, hkept⟩
  · obtain ⟨m, -, hexec⟩ := exec_retireRun ha (hrun.trans (congrArg some hu)) h5 hi
    have hst' : s.eng.store ≠ .halted := by
      rw [hst]
      exact fun h => nomatch h
    rw [State.deliver_request (by rw [State.afterRun_eng]; exact hr) (by rw [State.afterRun_eng]; exact hst') hab,
      Request.liveAnswer_retire hp he, Request.retireAnswer_done (by rw [State.afterRun_idx]; exact hl),
      State.endRequest_drain r _ _ (by rw [State.deleted_agenda, State.afterRun_agenda, ha])
        (fun _ => by rw [State.deleted_act, State.afterRun_rcl]; exact hact) 253] at hexec
    have hslot : ∀ n, ((s.afterRun p m).deleted e).slot n = s.slot n := fun n => by
      rw [State.deleted_slot, State.afterRun_slot]
    have hwin : ((s.afterRun p m).deleted e).win = s.win := by
      rw [State.deleted_win, State.afterRun_win]
    obtain ⟨hend, hkept⟩ := State.ending_hidden (s := s) (u := (s.afterRun p m).deleted e) (r := r) .ok e.fields
      (by rw [hslot]; exact hv) hn (by rw [hwin]) (by rw [hwin])
      (by show (s.afterRun p m).eng.store = _; rw [State.afterRun_eng]) (fun n _ => hslot n)
    have hidx := hkept.idx
    refine ⟨_, hexec, ?_, hend.iflag, fun k => ?_, ?_, hend.onward⟩
    · rw [hend.slot, hslot]
    · rw [hidx]
      show ((s.afterRun p m).idx.entries.filter _).find? _ = _
      rw [State.afterRun_idx]
      exact lookup_filter_ne k s.idx.entries
    · rw [hidx]
      rfl

end Sys2Proof.Machine

/-! PROOFS. Publishing a record (sections 4.4, 5.5, 7.3 and 8.5). -/

namespace Sys2Proof.Machine

set_option Elab.async false

/-! ### The commit run -/

/-- A commit run, its one granule in progress (R49). -/
def commitRunOf (who : Claimant) (n : SectorNo) (g : Nat) (data : List Byte) : Run :=
  { claim := { who := who, sector := n, first := g, work := .program data .exact }, done := 0, stop := false }

/-- A one-granule EXACT run into an erased granule verifies: the granule holds what was given (R20, R24). -/
theorem exec_commitRun {s : State} {p : PlaneId} {who : Claimant} {n : SectorNo} {g : Nat} {data : List Byte} (ha : s.agenda = [])
    (hu : (s.plane p).run = some (commitRunOf who n g data)) (hd : data.length = 8) (h5 : g < 512)
    (he : flashRead s.flash n (8 * g) 8 = List.replicate 8 0xFF)
    (hi : ∀ k, (s.plane p).finishRun k = { s.plane p with run := none }) :
    ∃ m, (∀ k o, o < 4096 → flashByte m k o =
        if k = n ∧ 8 * g ≤ o ∧ o < 8 * g + 8 then data.getD (o - 8 * g) 0 else flashByte s.flash k o) ∧
      exec (.granuleProgramDone p none) s = .next ((((s.afterRun p m).deliver (.answer who (.done 1))).drain 255).startTest) := by
  have hprog : programmed (s.granuleAt (commitRunOf who n g data).claim 0) (granuleData data 0) = data := by
    rw [granuleData_whole hd]
    show programmed (flashRead s.flash n (8 * (g + 0)) 8) data = data
    rw [Nat.add_zero, he, programmed_erased hd]
  have hverifies : verifies .exact (granuleData data 0) (programmed (s.granuleAt (commitRunOf who n g data).claim 0) (granuleData data 0)) =
      true := by
    rw [hprog, granuleData_whole hd]
    exact beq_self_eq_true data
  have hlast := exec_granule_last ha hu (data := data) (mode := .exact) rfl h5 (show data.length / 8 ≤ 0 + 1 by rw [hd]) rfl
    hverifies hi
  rw [show (commitRunOf who n g data).done = 0 from rfl, hprog, hd] at hlast
  refine ⟨flashWrite s.flash n (8 * g) data, fun k o ho => ?_, hlast⟩
  rw [flashByte_flashWrite (by omega) k ho, hd]

/-! ### PUBLISH -/

/-- The class table once it has taken the descriptor that a class request wrote (R152). -/
def WriteJob.classesTaken (j : WriteJob) (v : Vector ClassEntry 8) : Vector ClassEntry 8 :=
  if keyIsSystem j.key then
    v.setIfInBounds (j.key - 0xFF00)
      { policy := policyOf ((j.payload.getD 0 0).toNat), quota := ofBytes (j.payload.drop 1), present := true }
  else v

theorem State.takeDescriptor_eq (s : State) (j : WriteJob) : s.takeDescriptor j = { s with classes := j.classesTaken s.classes } := by
  unfold State.takeDescriptor WriteJob.classesTaken
  split <;> rfl

theorem WriteJob.getElem_classesTaken (j : WriteJob) (v : Vector ClassEntry 8) (c : Fin 8) :
    (j.classesTaken v)[c] = if (decide (0xFF00 ≤ j.key) && decide (j.key ≤ 0xFF07)) = true ∧ j.key = 0xFF00 + c.val then
      { policy := policyOf ((j.payload.getD 0 0).toNat), quota := ofBytes (j.payload.drop 1), present := true } else v[c] := by
  unfold WriteJob.classesTaken keyIsSystem
  by_cases hsys : (decide (0xFF00 ≤ j.key) && decide (j.key ≤ 0xFF07)) = true
  · rw [if_pos hsys, Fin.getElem_fin, Vector.getElem_setIfInBounds]
    rw [Bool.and_eq_true, decide_eq_true_iff, decide_eq_true_iff] at hsys
    refine if_congr ?_ rfl rfl
    rw [Bool.and_eq_true, decide_eq_true_iff, decide_eq_true_iff]
    omega
  · rw [if_neg hsys, if_neg (fun h => hsys h.1)]

/-- The result fields of a record written (R128). -/
def WriteJob.fields (j : WriteJob) : ResultFields := { length := j.length, key := j.key, cls := j.cls, version := j.version }

/-- PUBLISH of a new key. -/
theorem Request.publish_new {r : Request} {s : State} {p : Place} (hr : r.entry = none) (hl : s.idx.lookup r.job.key = none)
    (hlen : s.idx.entries.length < 1024) :
    r.publish p s = ({ s with
      idx := { s.idx with entries := entryInsert (r.job.entry p) s.idx.entries, counts := countUp s.idx.counts r.job.cls }
      classes := r.job.classesTaken s.classes } : State).endRequest r .ok r.job.fields := by
  have hins : s.idx.insert (r.job.entry p) = _ := KeyIndex.lookup_insert hl hlen
  unfold Request.publish
  rw [hr]
  dsimp only
  rw [hins, State.takeDescriptor_eq]
  rfl

/-- PUBLISH over an entry of the key. -/
theorem Request.publish_over {r : Request} {s : State} {p : Place} {old cur : Entry} (hr : r.entry = some old)
    (hl : s.idx.lookup r.job.key = some cur) :
    r.publish p s = ({ s with
      idx := { s.idx with
        entries := entryUpdate r.job.key (fun e => e.take (r.job.entry p)) s.idx.entries
        counts := countMove s.idx.counts cur.cls r.job.cls }
      classes := r.job.classesTaken s.classes } : State).endRequest { r with flags := { r.flags with replaced := true } } .ok
        r.job.fields := by
  have hrep : s.idx.replace (r.job.entry p) = _ := KeyIndex.replace_of_lookup hl
  unfold Request.publish
  rw [hr]
  dsimp only
  rw [hrep, State.takeDescriptor_eq]
  rfl

theorem lookup_taken {x y : KeyIndex} {key : Nat} {e cur : Entry} (hl : x.lookup key = some cur)
    (hy : y.entries = entryUpdate key (fun f => f.take e) x.entries) (k : Nat) :
    y.lookup k = if k = key then some { cur with cls := e.cls, place := e.place, length := e.length, version := e.version }
      else x.lookup k := by
  rw [lookup_entryUpdate (f := fun f => f.take e) (fun _ => rfl) hy, hl]
  rfl

theorem State.plane_putSector (s : State) (n : SectorNo) (e : SectorEntry) (q : PlaneId) : (s.putSector n e).plane q = s.plane q := by
  cases q <;> rfl

theorem State.plane_afterRun (s : State) (p q : PlaneId) (m : List Host.Cell) :
    (s.afterRun p m).plane q = (s.setPlane p { s.plane p with run := none }).plane q := by
  cases p <;> cases q <;> rfl

/-- The rest of a step in which the answer to a run ends the request of a visible slot, in a state `x` that differs from the one after the run
neither in the window unit nor in the agenda nor in what the reclaim engine waits for. -/
theorem State.run_ended_after {s x : State} {i : Instr} {r : Request} {code : ResultCode} {f : ResultFields} {p : PlaneId}
    {m : List Host.Cell} (hexec : exec i s = .next (((x.endRequest r code f).drain 255).startTest)) (ha : s.agenda = [])
    (hact : s.rcl.act ≠ .heldWait) (hv : (s.slot r.slot).hidden = false) (hn : r.slot ∉ s.win.queue)
    (hxa : x.agenda = (s.afterRun p m).agenda) (hxw : x.win = (s.afterRun p m).win) (hxr : x.rcl.act = (s.afterRun p m).rcl.act) :
    ∃ t, exec i s = .next t ∧ ({ x with idx := x.idx.freed } : State).Ended t r.slot code f r.flags := by
  rw [State.afterRun_agenda, ha] at hxa
  rw [State.afterRun_win] at hxw
  rw [State.afterRun_rcl] at hxr
  refine State.run_ended hexec hxa (fun _ => by rw [hxr]; exact hact) ?_ (by rw [hxw]; exact hn)
  show (x.win.slots[r.slot]).hidden = false
  rw [hxw]
  exact hv

/-- Settles O33: the commit of a new key's record, the commit that leads to RETIRE_OLD, and the end of RETIRE_OLD. -/
theorem commitPublishes : Obligations.CommitPublishes := by
  unfold Obligations.CommitPublishes
  intro s r p u n o hr ha hv hn hst hab hj hh hw hact hrun hi j fp e ended live system classTaken fields
  have hst' : s.eng.store ≠ .halted := by
    rw [hst]
    exact fun h => nomatch h
  have hdeliver : ∀ m a, (s.afterRun p m).deliver (.answer .request a) = r.liveAnswer (s.afterRun p m) a := fun m a =>
    State.deliver_request (by rw [State.afterRun_eng]; exact hr) (by rw [State.afterRun_eng]; exact hst') hab a
  have hidx : ∀ m, (s.afterRun p m).idx = s.idx := s.afterRun_idx p
  have htaken : ∀ m, classTaken { s with classes := j.classesTaken (s.afterRun p m).classes } := fun m c => by
    rw [State.afterRun_classes]
    exact j.getElem_classesTaken s.classes c
  constructor
  · intro data hp hu hd h5 he written
    obtain ⟨m, hm, hexec⟩ := exec_commitRun ha (hrun.trans (congrArg some hu)) hd h5 he (Plane.finishRun_idle hi)
    rw [hdeliver, Request.liveAnswer_commit hp hj] at hexec
    unfold Request.commitDone at hexec
    dsimp only at hexec
    rw [State.recordLive_eq, State.afterRun_sector] at hexec
    refine ⟨fun hent hl hlen => ?_, fun old hent hidle => ?_⟩
    · rw [hent] at hexec
      dsimp only at hexec
      rw [Request.publish_new hent (by show (s.afterRun p m).idx.lookup _ = _; rw [hidx]; exact hl)
        (by show (s.afterRun p m).idx.entries.length < _; rw [hidx]; exact hlen)] at hexec
      obtain ⟨t, hexec, hend⟩ := State.run_ended_after (p := p) (m := m) hexec ha hact hv hn rfl rfl rfl
      have hflash : t.flash = m := hend.kept.flash.trans (s.afterRun_flash p m)
      have hclasses := hend.kept.classes
      refine ⟨t, hexec, fun k o ho => ?_, fun c => ?_, ?_⟩
      · rw [hflash]
        exact hm k o ho
      · rw [hclasses]
        exact htaken m c
      · rw [hflash, hclasses]
        refine cast (congrArg (fun x => State.Ended x t _ _ _ _) ?_) hend
        cases p <;> rfl
    · rw [hent] at hexec
      dsimp only at hexec
      rw [State.setReq_claimProgram_idle (by show ((s.afterRun p m).plane _).Idle; rw [State.plane_afterRun]; exact hidle)] at hexec
      obtain ⟨t, hexec, hbec⟩ := State.run_becomes hexec (by
        show (State.setPlane _ _ _).agenda = []
        rw [State.setPlane_agenda]
        exact (s.afterRun_agenda p m).trans ha)
      have hflash : t.flash = m := by
        refine (congrArg State.flash hbec.1).trans ?_
        show (State.setPlane _ _ _).flash = m
        rw [State.setPlane_flash]
        exact s.afterRun_flash p m
      refine ⟨t, hexec, fun k o ho => ?_, ?_⟩
      · rw [hflash]
        exact hm k o ho
      · rw [hflash]
        refine cast (congrArg (fun x => State.Becomes x t) ?_) hbec
        rw [State.plane_putSector, State.plane_afterRun, ← hent]
        cases p <;> cases planeOf old.place.sector <;> rfl
  · intro old cur hp hent hl hu h5 x fpOld
    obtain ⟨m, -, hexec⟩ := exec_retireRun ha (hrun.trans (congrArg some hu)) h5 hi
    rw [hdeliver, Request.liveAnswer_retireOld hp hent hj] at hexec
    unfold Request.retireOldAnswer at hexec
    dsimp only at hexec
    rw [State.recordRetired_eq _ _ (footprint_pos _), State.afterRun_sector,
      Request.publish_over hent (by show (s.afterRun p m).idx.lookup _ = _; rw [hidx]; exact hl)] at hexec
    obtain ⟨t, hexec, hend⟩ := State.run_ended_after (p := p) (m := m) hexec ha hact hv hn rfl rfl rfl
    have hflash : t.flash = m := hend.kept.flash.trans (s.afterRun_flash p m)
    have hclasses := hend.kept.classes
    have hindex := hend.kept.idx
    refine ⟨t, hexec, fun c => ?_, fun k => ?_, ?_, ?_, ?_, ?_⟩
    · rw [hclasses]
      exact htaken m c
    · rw [hindex]
      refine lookup_taken (x := s.idx) (e := r.job.entry { sector := n, offset := o }) hl ?_ k
      show entryUpdate _ _ (s.afterRun p m).idx.entries = _
      rw [hidx]
    · rw [hindex]
      show countMove (s.afterRun p m).idx.counts _ _ = _
      rw [hidx]
    · rw [hindex]
      rfl
    · rw [hindex]
      rfl
    · rw [hflash, hclasses, hindex]
      refine cast (congrArg (fun x => State.Ended x t _ _ _ _) ?_) hend
      cases p <;> rfl

end Sys2Proof.Machine

/-! PROOFS. What a granule program leaves, and how a plane controller serves its claims (chapter 2). -/

namespace Sys2Proof.Machine

set_option Elab.async false

/-! ### A granule that verifies -/

theorem eq_of_getD {a b : List Byte} (h : a.length = b.length) (hi : ∀ i < b.length, a.getD i 0 = b.getD i 0) : a = b := by
  refine List.ext_getElem h fun i h1 h2 => ?_
  rw [← List.getD_eq_getElem a 0 h1, ← List.getD_eq_getElem b 0 h2]
  exact hi i h2

theorem allErased_iff {g : List Byte} : allErased g = true ↔ ∀ i < g.length, g.getD i 0 = 0xFF := by
  unfold allErased
  rw [List.all_eq_true]
  constructor
  · intro h i hi
    rw [List.getD_eq_getElem _ _ hi]
    exact eq_of_beq (h _ (List.getElem_mem hi))
  · intro h b hb
    obtain ⟨i, hi, rfl⟩ := List.mem_iff_getElem.1 hb
    rw [beq_iff_eq, ← List.getD_eq_getElem _ 0 hi]
    exact h i hi

/-- EXACT: the cells took the content given. -/
theorem verifies_exact {given took : List Byte} (hl : took.length = given.length)
    (h : ∀ i < given.length, took.getD i 0 = given.getD i 0) : verifies .exact given took = true :=
  beq_iff_eq.2 (eq_of_getD hl h)

/-- NOT_ERASED: some byte does not read erased. -/
theorem verifies_notErased {given took : List Byte} {i : Nat} (hi : i < took.length) (h : took.getD i 0 ≠ 0xFF) :
    verifies .notErased given took = true := by
  show (!allErased took) = true
  rw [Bool.not_eq_true', Bool.eq_false_iff]
  exact fun he => h (allErased_iff.1 he i hi)

theorem State.granuleVerified_next {s : State} {p : PlaneId} {u : Run} {k : Nat} (hh : (s.plane p).halted = false)
    (hs : u.stop = false) (hl : ¬ k ≤ u.done + 1) :
    s.granuleVerified p u k = s.setPlane p { s.plane p with run := some { u with done := u.done + 1 } } :=
  (if_neg (by rw [hs]; exact Bool.false_ne_true)).trans ((if_neg hl).trans (if_neg (by rw [hh]; exact Bool.false_ne_true)))

/-- A granule that verifies before the last of its run. -/
theorem exec_granule_next {s : State} {p : PlaneId} {u : Run} {data : List Byte} {mode : Verify} (hu : (s.plane p).run = some u)
    (hh : (s.plane p).halted = false) (hs : u.stop = false) (hw : u.claim.work = .program data mode)
    (h5 : u.claim.first + u.done < 512) (hl : ¬ data.length / 8 ≤ u.done + 1)
    (hv : verifies mode (granuleData data u.done) (programmed (s.granuleAt u.claim u.done) (granuleData data u.done)) = true) :
    exec (.granuleProgramDone p none) s = .next { s.setPlane p { s.plane p with run := some { u with done := u.done + 1 } } with
      flash := flashWrite s.flash u.claim.sector (8 * (u.claim.first + u.done))
        (programmed (s.granuleAt u.claim u.done) (granuleData data u.done)) } := by
  show execGranuleProgramDone p none s = _
  unfold execGranuleProgramDone
  rw [hu]
  dsimp only
  rw [hw]
  dsimp only [Option.getD]
  rw [if_neg (show ¬ Config.granulesPerSector ≤ u.claim.first + u.done from Nat.not_le.2 h5), if_pos hv,
    State.granuleVerified_next (by cases p <;> exact hh) hs hl, State.setGranule_eq]
  cases p <;> rfl

/-- Settles O35. -/
theorem granuleVerifies : Obligations.GranuleVerifies := by
  unfold Obligations.GranuleVerifies
  intro s p u data mode hu hh hs hw h5 hdata at_ hexact hnot
  have hgiven : (granuleData data u.done).length = 8 := length_granuleData (by omega)
  have hold : (s.granuleAt u.claim u.done).length = 8 := length_flashRead ..
  have htook : (programmed (s.granuleAt u.claim u.done) (granuleData data u.done)).length = 8 := length_programmed hold hgiven
  have hbyte : ∀ i, i < 8 → (programmed (s.granuleAt u.claim u.done) (granuleData data u.done)).getD i 0 =
      flashByte s.flash u.claim.sector (at_ + i) &&& data.getD (8 * u.done + i) 0 := fun i hi => by
    rw [getD_programmed, getD_granuleData _ _ hi, State.granuleAt, getD_flashRead _ _ _ hi]
  have hv : verifies mode (granuleData data u.done) (programmed (s.granuleAt u.claim u.done) (granuleData data u.done)) = true := by
    cases mode with
    | exact =>
      refine verifies_exact (htook.trans hgiven.symm) fun i hi => ?_
      have hi : i < 8 := hgiven ▸ hi
      rw [hbyte i hi, getD_granuleData _ _ hi]
      exact hexact rfl i hi
    | notErased =>
      obtain ⟨i, hi, hne⟩ := hnot rfl
      exact verifies_notErased (htook ▸ hi) (by rwa [hbyte i hi])
  refine ⟨_, exec_granule_next hu hh hs hw h5 (by omega) hv, rfl, fun n o ho => ?_⟩
  dsimp only
  rw [flashByte_flashWrite (by omega) n ho, htook]
  split
  · next hin =>
    rw [hbyte _ (by omega), hin.1, Nat.add_sub_cancel' hin.2.1]
  · rfl

/-! ### A granule that times out -/

theorem exec_programTimeout_eq {s : State} {p : PlaneId} {u : Run} {data kept : List Byte} {mode : Verify}
    (hu : (s.plane p).run = some u) (hw : u.claim.work = .program data mode) (h5 : u.claim.first + u.done < 512) :
    exec (.programTimeout p kept) s = .next ((s.setGranule u.claim u.done (timedOut mode (runRole s.flash u data)
      (s.granuleAt u.claim u.done) (granuleData data u.done) kept)).granuleFaulted p u) := by
  show execProgramTimeout p kept s = _
  unfold execProgramTimeout
  rw [hu]
  dsimp only
  rw [hw]
  dsimp only
  rw [if_neg (show ¬ Config.granulesPerSector ≤ u.claim.first + u.done from Nat.not_le.2 h5)]

theorem timedOut_cases (mode : Verify) (role : GranuleRole) (old given kept : List Byte) :
    timedOut mode role old given kept = old ∨ timedOut mode role old given kept = cutOff old given kept := by
  cases mode with
  | exact =>
    show faultLeaves _ _ _ _ = _ ∨ faultLeaves _ _ _ _ = _
    unfold faultLeaves
    split
    · exact .inr rfl
    · exact .inl rfl
  | notErased => exact .inl rfl

theorem length_cutOff_eq {old given kept : List Byte} (ho : old.length = 8) (hg : given.length = 8) (hk : kept.length = 8) :
    (cutOff old given kept).length = 8 := by
  unfold cutOff
  rw [List.length_zipWith, List.length_zipWith, ho, hg, hk]
  rfl

theorem length_timedOut_eq {mode : Verify} {role : GranuleRole} {old given kept : List Byte} (ho : old.length = 8)
    (hg : given.length = 8) (hk : kept.length = 8) : (timedOut mode role old given kept).length = 8 := by
  rcases timedOut_cases mode role old given kept with h | h <;> rw [h]
  · exact ho
  · exact length_cutOff_eq ho hg hk

theorem getD_cutOff {old given kept : List Byte} {i : Nat} (hg : i < given.length) (hk : i < kept.length) :
    (cutOff old given kept).getD i 0 = old.getD i 0 &&& (given.getD i 0 ||| kept.getD i 0) := by
  have hor : (List.zipWith (· ||| ·) given kept).getD i 0 = given.getD i 0 ||| kept.getD i 0 := by
    rw [List.getD_eq_getElem _ _ (by rw [List.length_zipWith]; omega), List.getElem_zipWith, ← List.getD_eq_getElem _ 0,
      ← List.getD_eq_getElem _ 0]
  rw [cutOff, getD_zipWith_and, hor]

/-- A cut-off program leaves each bit as it was or as the completed program makes it (R20). -/
theorem getLsbD_cutOff {old given kept : List Byte} {i : Nat} (hg : i < given.length) (hk : i < kept.length) (k : Nat) :
    ((cutOff old given kept).getD i 0).getLsbD k = (old.getD i 0).getLsbD k ∨
      ((cutOff old given kept).getD i 0).getLsbD k = ((old.getD i 0).getLsbD k && (given.getD i 0).getLsbD k) := by
  rw [getD_cutOff hg hk, BitVec.getLsbD_and, BitVec.getLsbD_or]
  cases (kept.getD i 0).getLsbD k
  · exact .inr (by rw [Bool.or_false])
  · exact .inl (by rw [Bool.or_true, Bool.and_true])

theorem getLsbD_timedOut {mode : Verify} {role : GranuleRole} {old given kept : List Byte} (hg : given.length = 8)
    (hk : kept.length = 8) {i : Nat} (hi : i < 8) (k : Nat) :
    ((timedOut mode role old given kept).getD i 0).getLsbD k = (old.getD i 0).getLsbD k ∨
      ((timedOut mode role old given kept).getD i 0).getLsbD k = ((old.getD i 0).getLsbD k && (given.getD i 0).getLsbD k) := by
  rcases timedOut_cases mode role old given kept with h | h <;> rw [h]
  · exact .inl rfl
  · exact getLsbD_cutOff (by omega) (by omega) k

/-- What a fault leaves is a content that R54 lets a fault leave, where the previous content is one. -/
theorem faultContent_faultLeaves {role : GranuleRole} {old given c : List Byte} (h : faultContent role given old = true) :
    faultContent role given (faultLeaves role old given c) = true := by
  unfold faultLeaves
  split
  · assumption
  · exact h

theorem IdentityRead.not_valid {x : IdentityRead} (h : (!x.isValid) = true) (a b : Nat) : x ≠ .valid a b := by
  rintro rfl
  cases h

theorem OpenRead.not_valid {x : OpenRead} (h : (!x.isValid) = true) (a : Nat) (b : Byte) : x ≠ .valid a b := by
  rintro rfl
  cases h

theorem allErased_granule {g : List Byte} (h : g.length = 8) : allErased g = true ↔ g = List.replicate 8 0xFF := by
  rw [allErased, List.all_eq_true, List.eq_replicate_iff]
  simp only [beq_iff_eq]
  exact ⟨fun hg => ⟨h, hg⟩, fun hg => hg.2⟩

/-- The role of a granule of the record area. -/
theorem granuleRole_record {g : Nat} {data before : List Byte} (h : 2 ≤ g) (hb : before.length = 8) :
    granuleRole g data before =
      if data.drop 2 = [0xA5, 0x0F, 0x5A, 0xF0, 0xC3, 0x3C] ∧ before ≠ List.replicate 8 0xFF then .commit else .other := by
  unfold granuleRole
  rw [if_neg (show ¬ g = identityNo from fun e => absurd (e ▸ h) (by decide)),
    if_neg (show ¬ g = openNo from fun e => absurd (e ▸ h) (by decide))]
  refine if_congr (and_congr Iff.rfl ?_) rfl rfl
  rw [← Bool.not_eq_true, ne_eq, ← allErased_granule hb]

/-- A commit run carries one granule, and that is no erased one. -/
theorem commit_given {data : List Byte} {done : Nat} (hd : data.drop 2 = [0xA5, 0x0F, 0x5A, 0xF0, 0xC3, 0x3C])
    (hl : 8 * (done + 1) ≤ data.length) : granuleData data done ≠ List.replicate 8 0xFF := by
  have hlen : data.length = 8 := by
    have h := congrArg List.length hd
    rw [List.length_drop] at h
    exact Nat.eq_add_of_sub_eq (by omega) h
  obtain rfl : done = 0 := by omega
  rw [granuleData_whole hlen]
  rintro rfl
  revert hd
  decide

/-- What a program time-out leaves of flash and of the fault counts, whatever its claimant makes of the fault. -/
theorem granuleFaulted_evolves (s : State) (p : PlaneId) (u : Run) :
    (s.granuleFaulted p u).flash = s.flash ∧ (s.granuleFaulted p u).faults = { s.faults with program := bump s.faults.program } :=
  have h := runEnded_evolves s.countProgramFault p u.claim.who (.fault u.done)
  ⟨h.flash_eq, h.faults_eq⟩

/-- Settles O36. -/
theorem programTimeoutFaults : Obligations.ProgramTimeoutFaults := by
  unfold Obligations.ProgramTimeoutFaults
  intro s p u data kept mode hu hw h5 hdata hkept n g given
  have hgiven : given.length = 8 := length_granuleData hdata
  have hold : (s.granuleAt u.claim u.done).length = 8 := length_flashRead ..
  refine ⟨_, exec_programTimeout_eq hu hw h5, ?_⟩
  generalize hx : timedOut mode (runRole s.flash u data) (s.granuleAt u.claim u.done) (granuleData data u.done) kept = x
  have hlen : x.length = 8 := hx ▸ length_timedOut_eq hold hgiven hkept
  obtain ⟨hflash, hfaults⟩ := granuleFaulted_evolves (s.setGranule u.claim u.done x) p u
  have hflash : ((s.setGranule u.claim u.done x).granuleFaulted p u).flash = flashWrite s.flash n (8 * g) x := hflash
  have hread : flashRead (flashWrite s.flash n (8 * g) x) n (8 * g) 8 = x := by
    have h := flashRead_flashWrite s.flash n (8 * g) x
    rwa [hlen] at h
  have hin : ∀ i, i < 8 → flashByte (flashWrite s.flash n (8 * g) x) n (8 * g + i) = x.getD i 0 := fun i hi => by
    rw [← getD_flashRead _ _ _ hi, hread]
  rw [hflash]
  refine ⟨hfaults, fun m o ho hout => ?_, fun i k hi _ => ?_, fun hff => ⟨fun hm => ?_, fun hm => ?_⟩⟩
  · rw [flashByte_flashWrite (by omega) m ho, hlen, if_neg hout]
  · dsimp only
    rw [hin i hi, ← hx, ← getD_flashRead s.flash n (8 * g) hi, ← getD_granuleData data u.done hi]
    exact getLsbD_timedOut hgiven hkept hi k
  · subst hm
    rw [hread]
    have hffold : s.granuleAt u.claim u.done = List.replicate 8 0xFF := hff
    rw [hffold] at hx
    have hx : faultLeaves (runRole s.flash u data) (List.replicate 8 0xFF) given (cutOff (List.replicate 8 0xFF) given kept) = x := hx
    have hleft : faultContent (runRole s.flash u data) given (List.replicate 8 0xFF) = true →
        faultContent (runRole s.flash u data) given x = true := fun h => hx ▸ faultContent_faultLeaves h
    have hrole : ∀ h : 2 ≤ g, runRole s.flash u data = _ := fun h => granuleRole_record h (length_flashRead ..)
    refine ⟨fun h0 a b => ?_, fun h1 a b => ?_, fun h2 hc => ?_, fun h2 hc i hi => ?_⟩
    · have hid : runRole s.flash u data = .identity := if_pos h0
      rw [hid] at hleft
      exact IdentityRead.not_valid (hleft rfl) a b
    · have hop : runRole s.flash u data = .opening := by
        show granuleRole g _ _ = _
        rw [h1]
        rfl
      rw [hop] at hleft
      exact OpenRead.not_valid (hleft rfl) a b
    · rw [hrole h2, if_pos hc] at hleft
      exact bne_iff_ne.1 (hleft (bne_iff_ne.2 (commit_given hc.1 hdata).symm))
    · rw [hrole h2, if_neg hc] at hx
      rw [hin i hi, ← hx]
      show (cutOff (List.replicate 8 0xFF) given kept).getD i 0 = _
      rw [getD_cutOff (by omega) (by omega), List.getD_replicate _ hi]
      exact BitVec.allOnes_and
  · subst hm
    rw [hread, ← hff, ← hx]
    rfl

/-! ### Suspension and arbitration -/

theorem Plane.grant_run {p : Plane} {c : Claim} (h : c.work ≠ .erase) (k : Nat) :
    p.grant k c = { p with run := some { claim := c, done := 0, stop := false } } := by
  unfold Plane.grant
  split
  · next he => exact absurd he h
  · rfl

theorem Work.isErase_of_ne {w : Work} (h : w ≠ .erase) : w.isErase = false := by
  cases w with
  | erase => exact absurd rfl h
  | read n => rfl
  | program d m => rfl

/-- Settles O40. -/
theorem suspensionCompletes : Obligations.SuspensionCompletes := by
  unfold Obligations.SuspensionCompletes
  intro s p e he hrun
  have hexec : exec (.suspendComplete p) s =
      .next (if e.cond = .suspending then s.setPlane p ((s.plane p).suspend s.win.suslim e) else s) := by
    show execSuspendComplete p s = _
    unfold execSuspendComplete
    rw [he]
  have hsuspend : (s.plane p).suspend s.win.suslim e =
      ({ s.plane p with erase := some { e with cond := .suspended, count := e.count + 1 } } : Plane).serveOrResume s.win.suslim
        { e with cond := .suspended, count := e.count + 1 } := by
    unfold Plane.suspend
    dsimp only
    rw [hrun, if_neg (by decide)]
  refine ⟨fun c hc hw hwork => ?_, fun hc hw => ?_, fun hc => ?_⟩
  · rw [hexec, if_pos hc, hsuspend]
    unfold Plane.serveOrResume
    dsimp only
    rw [hw]
    dsimp only
    rw [Work.isErase_of_ne hwork, if_neg Bool.false_ne_true, Plane.grant_run hwork]
  · rw [hexec, if_pos hc, hsuspend]
    unfold Plane.serveOrResume
    dsimp only
    rw [hw]
  · rw [hexec, if_neg hc]

/-- A claim of the request engine for a run, on a plane that has an erase of another sector (R30, R32). -/
theorem State.claim_inErase {s : State} {c : Claim} {e : EraseOp} (hwho : c.who = .request) (hw : c.work ≠ .erase)
    (hh : (s.plane (planeOf c.sector)).halted = false) (he : (s.plane (planeOf c.sector)).erase = some e) (hne : e.sector ≠ c.sector) :
    s.claim c = s.setPlane (planeOf c.sector)
      (if e.cond = .suspended ∧ (s.plane (planeOf c.sector)).run = none then
        { s.plane (planeOf c.sector) with run := some { claim := c, done := 0, stop := false } }
      else if e.cond = .running ∧ e.count < e.limit then
        { s.plane (planeOf c.sector) with waitReq := some c, erase := some { e with cond := .suspending } }
      else { s.plane (planeOf c.sector) with waitReq := some c }) := by
  have harrive : s.claim c = s.setPlane (planeOf c.sector) ((s.plane (planeOf c.sector)).arriveInErase s.win.suslim e c) := by
    unfold State.claim
    dsimp only
    rw [hh, if_neg Bool.false_ne_true, he]
    dsimp only
    rw [if_neg hne]
  rw [harrive]
  unfold Plane.arriveInErase Plane.waitRequest
  rw [hwho]
  dsimp only
  rw [Plane.grant_run hw, Work.isErase_of_ne hw]
  simp only [and_true]

theorem Plane.finishRun_free {p : Plane} (he : p.erase = none) (hh : p.halted = false) (k : Nat) :
    p.finishRun k = ({ p with run := none } : Plane).regrant k := by
  unfold Plane.finishRun
  dsimp only
  rw [hh, if_neg Bool.false_ne_true, he]

/-- Settles O41. -/
theorem planeArbitration : Obligations.PlaneArbitration := by
  unfold Obligations.PlaneArbitration
  constructor
  · intro s c e hwho hw hh he p
    refine ⟨fun hs => ?_, fun hne hc hlt => ?_, fun hne hc heq => ?_, fun hne hc hrun => ?_⟩
    · unfold State.claim
      dsimp only
      rw [hh, if_neg Bool.false_ne_true, he]
      dsimp only
      rw [if_pos hs, hwho]
    · rw [State.claim_inErase hwho hw hh he hne, if_neg (by rw [hc]; exact fun h => nomatch h.1), if_pos ⟨hc, hlt⟩]
    · rw [State.claim_inErase hwho hw hh he hne, if_neg (by rw [hc]; exact fun h => nomatch h.1),
        if_neg (fun h => absurd h.2 (by omega))]
    · rw [State.claim_inErase hwho hw hh he hne, if_pos ⟨hc, hrun⟩]
  · intro p limit he hh
    have hfree := Plane.finishRun_free he hh limit
    unfold Plane.regrant at hfree
    dsimp only at hfree
    refine ⟨fun c hq hw => ?_, fun c hq hr hw => ?_, fun c hq hr hw => ?_, fun hq hr => ?_⟩
    · rw [hq] at hfree
      exact hfree.trans (Plane.grant_run hw limit)
    · rw [hq, hr] at hfree
      exact hfree.trans ((Plane.grant_run hw limit).trans (by rw [hq]))
    · rw [hq, hr] at hfree
      refine hfree.trans ?_
      dsimp only [Plane.grant]
      rw [hw, hq]
    · rw [hq, hr] at hfree
      exact hfree.trans (by rw [hq, hr])

end Sys2Proof.Machine

/-! PROOFS. Faults of program runs and of erases (chapters 2, 4, 7 and 9). -/

namespace Sys2Proof.Machine

set_option Elab.async false

/-! ### A program fault in a write -/

/-- A program time-out on a plane that grants nothing at its end: the fault is counted and the claimant is answered FAULT. -/
theorem exec_programTimeout_last {s : State} {p : PlaneId} {u : Run} {data kept : List Byte} {mode : Verify} (ha : s.agenda = [])
    (hu : (s.plane p).run = some u) (hw : u.claim.work = .program data mode) (h5 : u.claim.first + u.done < 512)
    (hi : ∀ k, (s.plane p).finishRun k = { s.plane p with run := none }) :
    ∃ m, exec (.programTimeout p kept) s = .next ((((s.countProgramFault.afterRun p m).deliver
      (.answer u.claim.who (.fault u.done))).drain 255).startTest) := by
  refine ⟨flashWrite s.flash u.claim.sector (8 * (u.claim.first + u.done)) (timedOut mode (runRole s.flash u data)
    (s.granuleAt u.claim u.done) (granuleData data u.done) kept), ?_⟩
  rw [exec_programTimeout_eq hu hw h5, State.setGranule_eq, State.granuleFaulted, State.runEnded_eq (by exact ha)]
  rw [show ∀ f, (State.countProgramFault { s with flash := f }).plane p = s.plane p from fun f => by cases p <;> rfl, hi]
  cases p <;> rfl

/-- A program run answered FAULT (R66): the sector's entry, and a no-victim latch that an open sector, closed by it, clears (R161). -/
theorem State.sectorFaulted_eq (s : State) (n : SectorNo) :
    ∃ v, s.sectorFaulted n = { s.putSector n (s.sector n).faulted with rcl := { s.rcl with noVictim := v } } ∧
      ((s.sector n).state = .hostOpen → v = false) := by
  have hopen : (s.sector n).isOpen = true → (s.sector n).faulted.state = .full ∧ (s.sector n).state ≠ .blank ∧
      (s.sector n).state ≠ .full := fun ho => by
    have hstate : (s.sector n).state = .hostOpen ∨ (s.sector n).state = .moveOpen := by
      unfold SectorEntry.isOpen at ho
      rwa [Bool.or_eq_true, beq_iff_eq, beq_iff_eq] at ho
    have hclosed : (s.sector n).faulted.state = .full :=
      congrArg SectorEntry.state (if_pos ho : (s.sector n).faulted = SectorEntry.close { s.sector n with suspect := true })
    refine ⟨hclosed, ?_, ?_⟩ <;> rcases hstate with h | h <;> rw [h] <;> exact fun k => nomatch k
  unfold State.sectorFaulted
  by_cases ho : (s.sector n).isOpen = true
  · obtain ⟨hclosed, hblank, hfull⟩ := hopen ho
    rw [State.setSector_notBlank hblank (by rw [hclosed]; exact fun h => nomatch h), if_neg (fun h => hfull h.1)]
    refine ⟨_, rfl, fun _ => ?_⟩
    have hlatch : clearsLatch (s.sector n) (s.sector n).faulted = true := by
      unfold clearsLatch
      rw [hclosed, bne_iff_ne.2 hfull]
      rfl
    rw [hlatch, Bool.not_true, Bool.and_false]
  · have hsame : (s.sector n).faulted = { s.sector n with suspect := true } := if_neg ho
    rw [State.setSector_state (by rw [hsame])]
    refine ⟨_, rfl, fun h => absurd ?_ ho⟩
    unfold SectorEntry.isOpen
    rw [h]
    rfl

/-- The entry of a sector in which a program run faulted, by its state. -/
theorem SectorEntry.faulted_eq (e : SectorEntry) : e.faulted =
    if e.state = .hostOpen ∨ e.state = .moveOpen then
      { e with state := .full, suspect := true, staleBytes := e.staleBytes + (4096 - e.append), append := 4096 }
    else { e with suspect := true } := by
  unfold SectorEntry.faulted SectorEntry.isOpen
  refine if_congr ?_ rfl rfl
  rw [Bool.or_eq_true, beq_iff_eq, beq_iff_eq]

/-- The ending step releases the hold itself. -/
theorem State.releaseHold_endRequest (s : State) (r : Request) (code : ResultCode) (f : ResultFields) :
    s.releaseHold.endRequest r code f = s.endRequest r code f := by
  rw [State.endRequest_signals, State.endRequest_signals]
  unfold State.releaseHold
  cases hh : s.idx.hold with
  | none => rfl
  | some k =>
    unfold State.endSignals
    rw [hh]
    show ({ State.ending _ r code f with agenda := (s.agenda ++ [.holdReleased]) ++ [.take] } : State) = _
    rw [List.append_assoc]
    rfl

/-- A second fault in the granules of a record ends the request (R127). -/
theorem Request.recordFaulted_second {r : Request} {s : State} {p : Place} (h : r.job.faults ≠ 0) :
    r.recordFaulted p s = (s.sectorFaulted p.sector).endRequest r .writeFault ResultFields.zero := by
  unfold Request.recordFaulted
  dsimp only
  rw [if_pos (.inr h)]
  exact State.releaseHold_endRequest ..

/-- The entry of READ_ONLY told to an idle reclaim engine, behind the end of a request, changes nothing. -/
theorem State.endRequest_storeReadOnly {s : State} (r : Request) (code : ResultCode) (f : ResultFields) (ha : s.agenda = [])
    (hidle : s.rcl.phase = .idle) (hact : s.rcl.act ≠ .heldWait) :
    ((s.signal .storeReadOnly).endRequest r code f).drain 255 = (s.endRequest r code f).drain 255 := by
  have hsignals : ((s.signal .storeReadOnly).endRequest r code f).agenda = .storeReadOnly :: s.endSignals := by
    rw [State.endRequest_signals]
    show (s.agenda ++ [.storeReadOnly]) ++ s.endSignals = _
    rw [ha]
    rfl
  have hdeliver : ∀ u : State, u.rcl.phase = .idle → u.eng.req = none → u.deliver .storeReadOnly = u := fun u hu hr => by
    show u.reclaimReadOnly.requestReadOnly = u
    rw [State.reclaimReadOnly, if_pos hu, State.requestReadOnly, hr]
  rw [State.drain_cons hsignals, hdeliver _ (by rw [State.endRequest_signals]; exact hidle) (by rw [State.endRequest_signals]; rfl),
    State.endRequest_drain r code f ha (fun _ => hact) 253, ← State.endRequest_drain r code f ha (fun _ => hact) 252]
  refine congrArg (fun x : State => x.drain 254) ?_
  rw [State.endRequest_signals, State.endRequest_signals, ha]
  rfl

theorem State.declareReadOnly_ready {s : State} (h : s.eng.store = .ready) : s.declareReadOnly =
    State.signal { s with
      eng := { s.eng with store := .readOnly }, win := { s.win with iflag := s.win.iflag ||| 0x20 } } .storeReadOnly := by
  have hmask : IntFlag.stateChg.mask = 0x20 := rfl
  unfold State.declareReadOnly State.setStore Window.raise
  rw [if_pos h, if_neg (by rw [h]; exact fun k => k.elim (fun k => nomatch k) fun k => nomatch k), hmask]

/-- The state in which a write ends whose RETIRE_OLD and retire of the new record have both faulted (R129), with the latch as given. -/
def State.keptOld (s : State) (j : WriteJob) (p : Place) (cur : Entry) (latch : Bool) : State :=
  { s.putSector p.sector (s.sector p.sector).faulted with
    win := { s.win with iflag := s.win.iflag ||| 0x20 }
    eng := { s.eng with store := .readOnly }
    classes := j.classesTaken s.classes
    rcl := { s.rcl with noVictim := latch }
    idx := { s.idx with
      entries := entryUpdate j.key (fun e => e.take (j.entry p)) s.idx.entries
      counts := countMove s.idx.counts cur.cls j.cls } }

/-- The retire of the new record has faulted too (R129). -/
theorem Request.retireNewAnswer_fault {r : Request} {s : State} {p : Place} {old cur : Entry} (hst : s.eng.store = .ready)
    (hr : r.entry = some old) (hl : s.idx.lookup r.job.key = some cur) (k : Nat) : ∃ v, r.retireNewAnswer p (.fault k) s =
      ((s.keptOld r.job p cur v).signal .storeReadOnly).endRequest
        { r with flags := { r.flags with oldKept := true, replaced := true } } .ok r.job.fields := by
  obtain ⟨v, hx, -⟩ := s.sectorFaulted_eq p.sector
  refine ⟨v, ?_⟩
  show Request.publish { r with flags := { r.flags with oldKept := true } } p (s.sectorFaulted p.sector).declareReadOnly = _
  rw [hx, State.declareReadOnly_ready (by exact hst), Request.publish_over (by exact hr) (by exact hl)]
  rfl

section KeptOld
variable (s : State) (j : WriteJob) (p : Place) (cur : Entry) (v : Bool)

theorem State.keptOld_agenda : (s.keptOld j p cur v).agenda = s.agenda := rfl
theorem State.keptOld_slot (n : SlotNo) : (s.keptOld j p cur v).slot n = s.slot n := rfl
theorem State.keptOld_queue : (s.keptOld j p cur v).win.queue = s.win.queue := rfl
theorem State.keptOld_phase : (s.keptOld j p cur v).rcl.phase = s.rcl.phase := rfl
theorem State.keptOld_act : (s.keptOld j p cur v).rcl.act = s.rcl.act := rfl
theorem State.keptOld_flash : (s.keptOld j p cur v).flash = s.flash := rfl

end KeptOld

theorem State.plane_faulted (s : State) (n : SectorNo) (e : SectorEntry) (x : Reclaim) (q : PlaneId) :
    ({ s.putSector n e with rcl := x } : State).plane q = s.plane q := by
  cases q <;> rfl

/-- The program fault counted, with the run ended. -/
theorem State.plane_countedRun (s : State) (p q : PlaneId) (m : List Host.Cell) :
    (s.countProgramFault.afterRun p m).plane q = (s.setPlane p { s.plane p with run := none }).plane q := by
  cases p <;> cases q <;> rfl

/-! ### The faults that end a write

`s` is a state in which a run of the ACTIVE request `r`, a write with its record at offset `o` of sector `n`, is the only work in hand on
plane `p`. -/

section WriteFaults
variable {s : State} {r : Request} {p : PlaneId} {u : Run} {n : SectorNo} {o : Nat} {kept : List Byte}
variable (hr : s.eng.req = some r) (ha : s.agenda = []) (hv : (s.slot r.slot).hidden = false) (hn : r.slot ∉ s.win.queue)
  (hst : s.eng.store = .ready) (hab : r.aborting = false) (hj : r.job.place = some { sector := n, offset := o })
  (hw : s.idx.waiter = none) (hact : s.rcl.act ≠ .heldWait) (hu : (s.plane p).run = some u)
  (hi : ({ s.plane p with run := none } : Plane).Idle)

include hw in
theorem KeyIndex.freed_hold : s.idx.freed = { s.idx with hold := none } := by
  unfold KeyIndex.freed
  dsimp only
  rw [hw]

include hr hst hab in
/-- The end of the run is told to the request. -/
theorem State.deliver_afterRun {x : State} (hx : x.eng = s.eng) (m : List Host.Cell) (a : Answer) :
    (x.afterRun p m).deliver (.answer .request a) = r.liveAnswer (x.afterRun p m) a :=
  State.deliver_request (by rw [State.afterRun_eng, hx]; exact hr)
    (by rw [State.afterRun_eng, hx, hst]; exact fun h => nomatch h) hab a

include hr ha hv hn hst hab hj hw hact hu hi in
/-- A second fault of a run of the record. -/
theorem recordRun_second_fault {data : List Byte} {first : Nat} (hp : r.phase = .descriptor ∨ r.phase = .payload ∨ r.phase = .commit)
    (hf : r.job.faults = 1) (hc : u.claim = { who := .request, sector := n, first := first, work := .program data .exact })
    (h5 : first + u.done < 512) :
    ∃ t, exec (.programTimeout p kept) s = .next t ∧ ((s.sector n).state = .hostOpen → t.rcl.noVictim = false) ∧
      { (s.setPlane p { s.plane p with run := none }).putSector n (s.sector n).faulted with
        flash := t.flash
        rcl := { s.rcl with noVictim := t.rcl.noVictim }
        faults := s.countProgramFault.faults
        idx := { s.idx with hold := none } }.Ended t r.slot .writeFault ResultFields.zero r.flags := by
  obtain ⟨m, hexec⟩ := exec_programTimeout_last (kept := kept) ha hu (congrArg Claim.work hc) (by rw [hc]; exact h5)
    (Plane.finishRun_idle hi)
  rw [hc] at hexec
  dsimp only at hexec
  rw [State.deliver_afterRun hr hst hab (x := s.countProgramFault) rfl, Request.liveAnswer_recordFault hp hj,
    Request.recordFaulted_second (by rw [hf]; decide)] at hexec
  obtain ⟨v, hx, hlatch⟩ := (s.countProgramFault.afterRun p m).sectorFaulted_eq n
  rw [State.afterRun_sector] at hx hlatch
  dsimp only at hexec
  rw [hx] at hexec
  obtain ⟨t, hexec, hend⟩ := State.run_ended_after (p := p) (m := m) hexec ha hact hv hn (by cases p <;> rfl) (by cases p <;> rfl)
    (by cases p <;> rfl)
  have hflash : t.flash = m := hend.kept.flash.trans (s.countProgramFault.afterRun_flash p m)
  have hv' : t.rcl.noVictim = v := by
    rcases hend.kept.rcl with h | ⟨-, h⟩ <;> rw [h]
  refine ⟨t, hexec, fun ho => hv'.trans (hlatch ho), ?_⟩
  rw [hflash, hv', ← KeyIndex.freed_hold hw]
  refine cast (congrArg (fun x => State.Ended x t _ _ _ _) ?_) hend
  cases p <;> rfl

include hr ha hst hab hj hu hi in
/-- A fault of RETIRE_OLD. -/
theorem retireOldRun_fault {old : Entry} (hp : r.phase = .retireOld) (hent : r.entry = some old)
    (hc : u.claim = { who := .request, sector := old.place.sector, first := old.place.offset / 8 + 2,
                      work := .program markGranule .notErased })
    (h5 : old.place.offset / 8 + 2 + u.done < 512)
    (hidle : ((s.setPlane p { s.plane p with run := none }).plane (planeOf n)).Idle) :
    ∃ t, exec (.programTimeout p kept) s = .next t ∧
      ({ ((s.setPlane p { s.plane p with run := none }).putSector old.place.sector
            (s.sector old.place.sector).faulted).setPlane (planeOf n)
          (((s.setPlane p { s.plane p with run := none }).plane (planeOf n)).withRun .request n (o / 8 + 2)
            (.program markGranule .notErased)) with
        flash := t.flash
        rcl := { s.rcl with noVictim := t.rcl.noVictim }
        faults := s.countProgramFault.faults }.setReq { r with phase := .retireNew }).Becomes t := by
  obtain ⟨m, hexec⟩ := exec_programTimeout_last (kept := kept) ha hu (congrArg Claim.work hc) (by rw [hc]; exact h5)
    (Plane.finishRun_idle hi)
  rw [hc] at hexec
  dsimp only at hexec
  rw [State.deliver_afterRun hr hst hab (x := s.countProgramFault) rfl, Request.liveAnswer_retireOld hp hent hj] at hexec
  unfold Request.retireOldAnswer at hexec
  obtain ⟨v, hx, -⟩ := (s.countProgramFault.afterRun p m).sectorFaulted_eq old.place.sector
  rw [State.afterRun_sector] at hx
  dsimp only at hexec
  rw [hx, State.setReq_claimProgram_idle (by
    rw [State.plane_faulted, State.plane_countedRun]
    exact hidle), State.plane_faulted, State.plane_countedRun] at hexec
  generalize hplane : (s.setPlane p { s.plane p with run := none }).plane (planeOf n) = q at hexec ⊢
  obtain ⟨t, hexec, hbec⟩ := State.run_becomes hexec (by
    show (State.setPlane _ _ _).agenda = []
    rw [State.setPlane_agenda]
    exact (s.countProgramFault.afterRun_agenda p m).trans ha)
  have hflash : t.flash = m := by
    refine (congrArg State.flash hbec.1).trans ?_
    show (State.setPlane _ _ _).flash = m
    rw [State.setPlane_flash]
    exact s.countProgramFault.afterRun_flash p m
  have hv' : t.rcl.noVictim = v := by
    rcases hbec.2 with h | ⟨-, h⟩ <;> rw [h] <;> show (State.setPlane _ _ _).rcl.noVictim = v <;> rw [State.setPlane_rcl]
  refine ⟨t, hexec, ?_⟩
  rw [hflash, hv']
  refine cast (congrArg (fun x => State.Becomes x t) ?_) hbec
  cases p <;> cases planeOf n <;> rfl

include hr ha hv hn hst hab hj hw hact hu hi in
/-- The retire of the new record verifies. -/
theorem retireNewRun_done (hp : r.phase = .retireNew) (hrun : u = retireRunOf .request n (o / 8 + 2)) (h5 : o / 8 + 2 < 512) :
    ∃ t, exec (.granuleProgramDone p none) s = .next t ∧
      { (s.setPlane p { s.plane p with run := none }).putSector n ((s.sector n).makeStale (footprint r.job.length)) with
        flash := t.flash
        rcl := { s.rcl with noVictim := s.rcl.noVictim && (s.sector n).state != SectorState.full }
        idx := { s.idx with hold := none } }.Ended t r.slot .writeFault ResultFields.zero r.flags := by
  obtain ⟨m, -, hexec⟩ := exec_retireRun ha (hu.trans (congrArg some hrun)) h5 hi
  rw [State.deliver_afterRun hr hst hab (x := s) rfl, Request.liveAnswer_retireNew hp hj] at hexec
  unfold Request.retireNewAnswer State.endPlain at hexec
  dsimp only at hexec
  rw [State.recordRetired_eq _ _ (footprint_pos _), State.afterRun_sector] at hexec
  obtain ⟨t, hexec, hend⟩ := State.run_ended_after (p := p) (m := m) hexec ha hact hv hn rfl rfl rfl
  have hflash : t.flash = m := hend.kept.flash.trans (s.afterRun_flash p m)
  refine ⟨t, hexec, ?_⟩
  rw [hflash, ← KeyIndex.freed_hold hw]
  refine cast (congrArg (fun x => State.Ended x t _ _ _ _) ?_) hend
  cases p <;> rfl

include hr ha hv hn hst hab hj hact hu hi in
/-- The retire of the new record faults too. -/
theorem retireNewRun_fault (hp : r.phase = .retireNew) (hrun : u = retireRunOf .request n (o / 8 + 2)) (h5 : o / 8 + 2 < 512)
    {old cur : Entry} (hent : r.entry = some old) (hl : s.idx.lookup r.job.key = some cur) (hidle : s.rcl.phase = .idle) :
    ∃ t, exec (.programTimeout p kept) s = .next t ∧
      (∀ k, t.idx.lookup k = if k = r.job.key then
        some { cur with cls := r.job.cls, place := { sector := n, offset := o }, length := r.job.length, version := r.job.version }
      else s.idx.lookup k) ∧
      t.idx.counts = countMove s.idx.counts cur.cls r.job.cls ∧ t.idx.hold = none ∧
      { (s.setPlane p { s.plane p with run := none }).putSector n (s.sector n).faulted with
        win := { s.win with iflag := s.win.iflag ||| 0x20 }
        eng := { s.eng with store := .readOnly }
        flash := t.flash
        classes := t.classes
        rcl := { s.rcl with noVictim := t.rcl.noVictim }
        faults := s.countProgramFault.faults
        idx := t.idx }.Ended t r.slot .ok
          { length := r.job.length, key := r.job.key, cls := r.job.cls, version := r.job.version }
          { r.flags with replaced := true, oldKept := true } := by
  obtain ⟨m, hexec⟩ := exec_programTimeout_last (kept := kept) ha (hu.trans (congrArg some hrun)) rfl h5 (Plane.finishRun_idle hi)
  rw [show (retireRunOf .request n (o / 8 + 2)).claim.who = .request from rfl, State.deliver_afterRun hr hst hab (x := s.countProgramFault) rfl,
    Request.liveAnswer_retireNew hp hj] at hexec
  obtain ⟨v, hfault⟩ := Request.retireNewAnswer_fault (r := r) (s := s.countProgramFault.afterRun p m)
    (p := { sector := n, offset := o }) (by rw [State.afterRun_eng]; exact hst) hent (by rw [State.afterRun_idx]; exact hl)
    (retireRunOf .request n (o / 8 + 2)).done
  have hquiet : ((s.countProgramFault.afterRun p m).keptOld r.job { sector := n, offset := o } cur v).agenda = [] := by
    rw [State.keptOld_agenda, State.afterRun_agenda]
    exact ha
  have hnoWait : ((s.countProgramFault.afterRun p m).keptOld r.job { sector := n, offset := o } cur v).rcl.act ≠ .heldWait := by
    rw [State.keptOld_act, State.afterRun_rcl]
    exact hact
  rw [hfault, State.endRequest_storeReadOnly _ _ _ hquiet (by rw [State.keptOld_phase, State.afterRun_rcl]; exact hidle) hnoWait]
    at hexec
  obtain ⟨t, hexec, hend⟩ := State.run_ended hexec hquiet (fun _ => hnoWait)
    (by rw [State.keptOld_slot, State.afterRun_slot]; exact hv) (by rw [State.keptOld_queue, State.afterRun_win]; exact hn)
  have hflash : t.flash = m := hend.kept.flash.trans (s.countProgramFault.afterRun_flash p m)
  have hclasses := hend.kept.classes
  have hindex := hend.kept.idx
  have hv' : t.rcl.noVictim = v := by
    rcases hend.kept.rcl with h | ⟨-, h⟩ <;> rw [h] <;> rfl
  refine ⟨t, hexec, fun k => ?_, ?_, ?_, ?_⟩
  · rw [hindex]
    refine lookup_taken (x := s.idx) (e := r.job.entry { sector := n, offset := o }) hl ?_ k
    show entryUpdate _ _ (s.countProgramFault.afterRun p m).idx.entries = _
    rw [State.afterRun_idx]
    rfl
  · rw [hindex]
    show countMove (s.countProgramFault.afterRun p m).idx.counts _ _ = _
    rw [State.afterRun_idx]
    rfl
  · rw [hindex]
    rfl
  · rw [hflash, hv', hclasses, hindex]
    refine cast (congrArg (fun x => State.Ended x t _ _ _ _) ?_) hend
    cases p <;> rfl

end WriteFaults

/-- Settles O37. -/
theorem faultsEndWrite : Obligations.FaultsEndWrite := by
  unfold Obligations.FaultsEndWrite
  intro s r p u n o kept hr ha hv hn hst hab hj hw hact hu hi j ended faulted counted
  have hfaulted : ∀ k, faulted (s.sector k) = (s.sector k).faulted := fun k => (SectorEntry.faulted_eq _).symm
  refine ⟨fun data first hp hf hc h5 => ?_, fun old hp hent hc h5 hidle => ?_, fun k hp hh hrun h5 => ⟨?_, fun old cur hent hl hidle => ?_⟩⟩
  · rw [hfaulted n]
    exact recordRun_second_fault hr ha hv hn hst hab hj hw hact hu hi (hp.imp And.left (Or.imp And.left And.left)) hf hc h5
  · rw [hfaulted old.place.sector]
    exact retireOldRun_fault hr ha hst hab hj hu hi hp hent hc h5 hidle
  · exact retireNewRun_done hr ha hv hn hst hab hj hw hact hu hi hp hrun h5
  · rw [hfaulted n]
    exact retireNewRun_fault hr ha hv hn hst hab hj hact hu hi hp hrun h5 hent hl hidle

/-! ### The end of an erase -/

theorem Plane.endingErase_eq {p : Plane} {e : EraseOp} (he : p.erase = some e) (hc : e.cond ≠ .suspended) : p.endingErase = some e := by
  unfold Plane.endingErase
  rw [he]
  exact if_neg hc

/-- A sector just erased passes its blank check. -/
theorem flashBlank_flashErase (m : List Host.Cell) (n : SectorNo) : flashBlank (flashErase m n) n = true := by
  refine List.all_eq_true.2 fun c hc => ?_
  rw [(List.mem_filter.1 hc).2, Bool.true_or]

theorem flashByte_flashErase (m : List Host.Cell) (n k : SectorNo) {o : Nat} (ho : o < 4096) :
    flashByte (flashErase m n) k o = if k = n then 0xFF else flashByte m k o := by
  split
  · next h => rw [h, flashByte_flashErase_same m n ho]
  · next h => rw [flashByte_flashErase_ne m h ho]

/-- The state once an erase has ended that was all that the plane had in hand, and flash reads as given. -/
def State.afterErase (s : State) (p : PlaneId) (flash : List Host.Cell) : State :=
  { s.setPlane p { s.plane p with erase := none } with flash := flash }

theorem State.afterErase_agenda (s : State) (p : PlaneId) (f : List Host.Cell) : (s.afterErase p f).agenda = s.agenda := by
  cases p <;> rfl

theorem State.afterErase_rcl (s : State) (p : PlaneId) (f : List Host.Cell) : (s.afterErase p f).rcl = s.rcl := by
  cases p <;> rfl

theorem State.afterErase_sector (s : State) (p : PlaneId) (f : List Host.Cell) (n : SectorNo) :
    (s.afterErase p f).sector n = s.sector n := by
  cases p <;> rfl

theorem State.afterErase_plane (s : State) (p : PlaneId) (f : List Host.Cell) :
    (s.afterErase p f).plane p = { s.plane p with erase := none } := by
  cases p <;> rfl

/-- An erase that passes its blank check with nothing else in hand on the plane. -/
theorem exec_eraseBlankCheck_done {s : State} {p : PlaneId} {e : EraseOp} (ha : s.agenda = []) (he : (s.plane p).erase = some e)
    (hc : e.cond ≠ .suspended) (hi : ({ s.plane p with erase := none } : Plane).Idle) :
    exec (.eraseBlankCheck p []) s = .next ((((s.afterErase p (flashErase s.flash e.sector)).deliver
      (.answer e.who (.done 0))).drain 255).startTest) := by
  have hblank : flashBlank (flashLoad s.flash e.sector []) e.sector = true := flashBlank_flashErase s.flash e.sector
  show execEraseBlankCheck p [] s = _
  unfold execEraseBlankCheck
  rw [Plane.endingErase_eq he hc]
  dsimp only
  rw [if_pos hblank, State.eraseEnded_eq (by exact ha),
    show ∀ f, State.plane { s with flash := f } p = s.plane p from fun f => by cases p <;> rfl, Plane.finishErase_idle hi]
  cases p <;> rfl

theorem State.reclaimAnswer_cycle {s : State} {n : SectorNo} {k : CycleKind} (hc : s.rcl.cycle = some (n, k))
    (hs : s.rcl.step = none) (a : Answer) : s.reclaimAnswer a = s.cycleAnswer n a := by
  unfold State.reclaimAnswer
  rw [hc, hs]

theorem State.cycleAnswer_erased {s : State} (n : SectorNo) (ha : s.rcl.act = .erasing) (k : Nat) :
    s.cycleAnswer n (.done k) = s.reclaimErased n := by
  unfold State.cycleAnswer
  rw [ha]

theorem State.cycleAnswer_eraseFault {s : State} (n : SectorNo) (ha : s.rcl.act = .erasing) (k : Nat) :
    s.cycleAnswer n (.fault k) = s.beginRetire n .faulted := by
  unfold State.cycleAnswer
  rw [ha]

/-- The suspect flag cleared, of a sector that is not FULL (R68). -/
theorem State.sectorErased_eq {s : State} {n : SectorNo} (h : (s.sector n).state ≠ .full) :
    s.sectorErased n = s.putSector n { s.sector n with suspect := false } := by
  refine State.setSector_same rfl ?_
  unfold clearsLatch
  dsimp only
  rw [bne_self_eq_false, Bool.false_and, Bool.false_or, beq_eq_false_iff_ne.2 h, Bool.false_and]

theorem State.readOnlyStop_none {s : State} (h : s.rcl.stop = .none) : s.readOnlyStop = false := by
  unfold State.readOnlyStop
  rw [h]
  rfl

/-- HEADER: the identity granule goes to an idle plane (R170). -/
theorem State.reclaimErased_idle {s : State} {n : SectorNo} (hfull : (s.sector n).state ≠ .full) (hstop : s.rcl.stop = .none)
    (hidle : (s.plane (planeOf n)).Idle) : s.reclaimErased n =
      State.setPlane { s.putSector n { s.sector n with suspect := false } with
        rcl := { s.rcl with phase := .header, act := .identity } } (planeOf n)
      ((s.plane (planeOf n)).withRun .reclaim n 0
        (.program (identityGranule s.space.gen ((s.sector n).eraseCount + 1)) .exact)) := by
  have hsector : (s.putSector n { s.sector n with suspect := false }).sector n = { s.sector n with suspect := false } := by
    rw [State.sector_putSector, if_pos rfl]
  unfold State.reclaimErased
  dsimp only
  rw [State.sectorErased_eq hfull, State.readOnlyStop_none (by exact hstop), if_neg Bool.false_ne_true, hsector]
  unfold State.claimProgram
  rw [State.claim_idle (by
    dsimp only
    rw [State.plane_faulted]
    exact hidle) rfl]
  dsimp only
  rw [State.plane_faulted]
  rfl

theorem State.startTest_busy {s : State} (h : s.rcl.phase ≠ .idle) : s.startTest = s := by
  unfold State.startTest
  rw [if_neg]
  intro hgo
  exact h (State.mayStart_iff.1 (Bool.and_eq_true_iff.1 hgo).1).1

/-- Settles O38. -/
theorem eraseEntersHeader : Obligations.EraseEntersHeader := by
  unfold Obligations.EraseEntersHeader
  intro s p e k ha hp hwho hcond he hi hphase hact hcycle hstep hstop hstate x
  subst hp
  have hexec := exec_eraseBlankCheck_done ha he hcond hi
  have hm : ∀ n o, o < 4096 → flashByte (flashErase s.flash e.sector) n o = if n = e.sector then 0xFF else flashByte s.flash n o :=
    fun n o ho => flashByte_flashErase s.flash e.sector n ho
  generalize flashErase s.flash e.sector = m at hexec hm
  have hheader := State.reclaimErased_idle (s := s.afterErase (planeOf e.sector) m) (n := e.sector)
    (by rw [State.afterErase_sector, hstate]; exact fun h => nomatch h) (by rw [State.afterErase_rcl]; exact hstop)
    (by rw [State.afterErase_plane]; exact hi)
  rw [hwho, show ∀ (y : State) a, y.deliver (.answer .reclaim a) = y.reclaimAnswer a from fun _ _ => rfl,
    State.reclaimAnswer_cycle (by rw [State.afterErase_rcl]; exact hcycle) (by rw [State.afterErase_rcl]; exact hstep),
    State.cycleAnswer_erased _ (by rw [State.afterErase_rcl]; exact hact), hheader,
    State.drain_nil (by
      rw [State.setPlane_agenda]
      exact (s.afterErase_agenda _ m).trans ha),
    State.startTest_busy (by rw [State.setPlane_rcl]; exact fun h => nomatch h), State.afterErase_plane, State.afterErase_sector] at hexec
  refine ⟨_, hexec, ?_, fun n o ho => ?_⟩
  · cases planeOf e.sector <;> rfl
  · rw [State.setPlane_flash]
    refine Eq.trans ?_ (hm n o ho)
    cases planeOf e.sector <;> rfl

/-! ### Erase faults -/

theorem cellsWf_of_sectorCellsWf : ∀ {l : List Host.Cell}, sectorCellsWf l = true → cellsWf 0xFF l = true
  | [], _ => rfl
  | [_], h => (Bool.and_eq_true_iff.1 h).2
  | c :: d :: m, h => by
    simp only [sectorCellsWf, Bool.and_eq_true] at h
    obtain ⟨⟨⟨hlt, -⟩, hne⟩, hrest⟩ := h
    simp only [cellsWf, Bool.and_eq_true]
    exact ⟨⟨hlt, hne⟩, cellsWf_of_sectorCellsWf hrest⟩

/-- Cells of one sector put into it, of which no two have the same offset. -/
theorem flashByte_foldl_cellSet (n : SectorNo) {o : Nat} (ho : o < 4096) : ∀ (l : List Host.Cell) (m : List Host.Cell),
    l.Pairwise (fun c d => c.1 < d.1) → (∀ c ∈ l, c.1 < 4096) →
    flashByte (l.foldl (fun f c => if c.1 < Config.sectorSize then cellSet Config.erasedByte f (flashAddr n c.1) c.2 else f) m) n o =
      cellGet (flashByte m n o) l o
  | [], _, _, _ => rfl
  | c :: l, m, hp, hl => by
    obtain ⟨hfirst, hrest⟩ := List.pairwise_cons.1 hp
    have hc : c.1 < Config.sectorSize := hl c (List.mem_cons_self ..)
    rw [List.foldl_cons, if_pos hc, flashByte_foldl_cellSet n ho l _ hrest fun d hd => hl d (List.mem_cons_of_mem _ hd), cellGet]
    by_cases h : c.1 = o
    · subst h
      rw [if_pos rfl, cellGet_of_not_mem fun d hd => Nat.ne_of_gt (hfirst d hd)]
      exact cellGet_cellSet_same ..
    · rw [if_neg h]
      have hne : flashAddr n o ≠ flashAddr n c.1 := fun e => h (Nat.add_left_cancel e).symm
      rw [show flashByte (cellSet Config.erasedByte m (flashAddr n c.1) c.2) n o = flashByte m n o from cellGet_cellSet_ne _ _ _ hne]

/-- A sector loaded with what an erase left holds just that (R20). -/
theorem flashByte_flashLoad (m : List Host.Cell) (n k : SectorNo) {left : List Host.Cell} (hl : sectorCellsWf left = true) {o : Nat}
    (ho : o < 4096) : flashByte (flashLoad m n left) k o = if k = n then cellGet 0xFF left o else flashByte m k o := by
  split
  · next h =>
    rw [h, flashLoad, flashByte_foldl_cellSet n ho left _ ((cellsWf_iff _ _).1 (cellsWf_of_sectorCellsWf hl)).1
      fun c hc => (Sys2Proof.Laws.sectorCellsWf_mem hl c hc).1, flashByte_flashErase_same m n ho]
  · next h => exact flashByte_flashLoad_ne m left h ho

theorem cellGet_of_forall {d : Byte} {a : Nat} : ∀ {m : List Host.Cell}, (∀ c ∈ m, c.1 = a → c.2 = d) → cellGet d m a = d
  | [], _ => rfl
  | c :: m, h => by
    unfold cellGet
    split
    · next hc => exact h c (List.mem_cons_self ..) hc
    · exact cellGet_of_forall fun e he => h e (List.mem_cons_of_mem _ he)

theorem flashByte_of_blank {m : List Host.Cell} {n : SectorNo} (h : flashBlank m n = true) {o : Nat} (ho : o < 4096) :
    flashByte m n o = 0xFF := by
  refine cellGet_of_forall fun c hc ha => ?_
  have hin : inSector n c = true := by
    unfold inSector
    rw [ha, Bool.and_eq_true, decide_eq_true_iff, decide_eq_true_iff]
    exact ⟨Nat.add_le_add_left (Nat.zero_le o) _, Nat.add_lt_add_left ho _⟩
  have hbyte := List.all_eq_true.1 h c hc
  rw [hin, Bool.not_true, Bool.false_or] at hbyte
  exact eq_of_beq hbyte

theorem State.sector_setPlane (s : State) (p : PlaneId) (x : Plane) (n : SectorNo) : (s.setPlane p x).sector n = s.sector n := by
  cases p <;> rfl

theorem State.sector_putSector_same (s : State) (n : SectorNo) (e : SectorEntry) : (s.putSector n e).sector n = e := by
  rw [State.sector_putSector, if_pos rfl]

theorem countP_set_le (l : List SectorEntry) {i : Nat} (h : i < l.length) (p : SectorEntry → Bool) (e : SectorEntry) :
    l.countP p ≤ (l.set i e).countP p + 1 := by
  rw [List.countP_set h]
  split <;> omega

/-- A sector that goes out of use takes at most one from the usable ones. -/
theorem State.usableCount_putSector (s : State) (n : SectorNo) (e : SectorEntry) :
    s.space.usableCount ≤ (s.putSector n e).space.usableCount + 1 := by
  unfold Space.usableCount State.putSector
  dsimp only
  rw [Vector.toList_set]
  exact countP_set_le _ (by rw [Vector.length_toList]; exact n.isLt) _ _

/-- A sector neither BLANK nor FULL is retired where enough others stay usable, and its retire granule read (R70, R43). -/
theorem State.beginRetire_eq {s : State} {n : SectorNo} (own : CycleEnd) (hblank : (s.sector n).state ≠ .blank)
    (hfull : (s.sector n).state ≠ .full) (hstop : s.rcl.stop = .none) (h7 : 7 ≤ s.space.usableCount)
    (hidle : (s.plane (planeOf n)).Idle) : s.beginRetire n own =
      State.setPlane { s.putSector n ((s.sector n).leaveUse .retired) with
        rcl := { s.rcl with
          act := .readRetire own, noVictim := s.rcl.noVictim && !clearsLatch (s.sector n) ((s.sector n).leaveUse .retired) } }
        (planeOf n)
      ((s.plane (planeOf n)).withRun .reclaim n 2 (.read 1)) := by
  have hout := State.setSector_notBlank (s := s) (n := n) (e := (s.sector n).leaveUse .retired) hblank (fun h => nomatch h)
  rw [if_neg (fun h => hfull h.1)] at hout
  have husable : ¬ (s.putSector n ((s.sector n).leaveUse .retired)).space.usableCount < Config.usableThreshold := by
    have := s.usableCount_putSector n ((s.sector n).leaveUse .retired)
    have : Config.usableThreshold = 6 := rfl
    omega
  have houtcome : s.retireOutcome own = own := if_neg (by rw [hstop]; exact fun h => nomatch h)
  unfold State.beginRetire
  rw [houtcome]
  unfold State.retireSector State.sectorOut State.retireRun
  dsimp only
  rw [hout, if_neg (by exact husable)]
  unfold State.claimRead
  have hplane : ∀ x : Reclaim, ({ s.putSector n ((s.sector n).leaveUse .retired) with rcl := x } : State).plane (planeOf n) =
      s.plane (planeOf n) := fun x => State.plane_faulted ..
  rw [State.claim_idle (by exact cast (congrArg Plane.Idle (hplane _).symm) hidle) rfl]
  cases planeOf n <;> rfl

theorem State.plane_countEraseFault (s : State) (p : PlaneId) : s.countEraseFault.plane p = s.plane p := by
  cases p <;> rfl

/-- What follows an erase fault in every case, and for the reclaim engine in ERASE. -/
theorem eraseFaulted {s : State} {p : PlaneId} {e : EraseOp} {left : List Host.Cell} (hleft : sectorCellsWf left = true) :
    let t := ({ s with flash := flashLoad s.flash e.sector left }.countEraseFault.eraseEnded p e.who (.fault 0))
    t.faults = { s.faults with erase := if s.faults.erase < 65535 then s.faults.erase + 1 else s.faults.erase } ∧
      (∀ n o, o < 4096 → flashByte t.flash n o = if n = e.sector then cellGet 0xFF left o else flashByte s.flash n o) ∧
      (∀ k, s.agenda = [] → p = planeOf e.sector → e.who = .reclaim → ({ s.plane p with erase := none } : Plane).Idle →
        s.rcl.phase = .erase → s.rcl.act = .erasing → s.rcl.cycle = some (e.sector, k) → s.rcl.step = none →
        s.rcl.stop = .none → (s.sector e.sector).state = .erasing → 7 ≤ s.space.usableCount →
        t.sector e.sector = (s.sector e.sector).leaveUse .retired ∧ t.rcl.act = .readRetire .faulted ∧
          t.plane p = ({ s.plane p with erase := none } : Plane).withRun .reclaim e.sector 2 (.read 1)) := by
  have hbytes := fun n o ho => flashByte_flashLoad s.flash e.sector n hleft (o := o) ho
  generalize flashLoad s.flash e.sector left = m at hbytes ⊢
  intro t
  have hevolves := eraseEnded_evolves ({ s with flash := m }.countEraseFault) p e.who (.fault 0)
  refine ⟨hevolves.faults_eq, fun n o ho => ?_, fun k ha hp hwho hi hphase hact hcycle hstep hstop hstate h7 => ?_⟩
  · rw [show t.flash = m from hevolves.flash_eq]
    exact hbytes n o ho
  · subst hp
    have hended : t = (((s.countEraseFault.afterErase (planeOf e.sector) m).deliver (.answer e.who (.fault 0))).drain 255).startTest := by
      show State.eraseEnded _ _ _ _ = _
      rw [State.eraseEnded_eq (by exact ha),
        show ∀ f, (State.countEraseFault { s with flash := f }).plane (planeOf e.sector) = s.plane (planeOf e.sector) from
          fun f => by cases planeOf e.sector <;> rfl, Plane.finishErase_idle hi]
      cases planeOf e.sector <;> rfl
    have hretire := State.beginRetire_eq (s := s.countEraseFault.afterErase (planeOf e.sector) m) (n := e.sector) .faulted
      (by rw [State.afterErase_sector]; exact fun h => nomatch hstate.symm.trans h)
      (by rw [State.afterErase_sector]; exact fun h => nomatch hstate.symm.trans h) (by rw [State.afterErase_rcl]; exact hstop)
      (by cases planeOf e.sector <;> exact h7) (by rw [State.afterErase_plane, State.plane_countEraseFault]; exact hi)
    rw [hwho, show ∀ (y : State) a, y.deliver (.answer .reclaim a) = y.reclaimAnswer a from fun _ _ => rfl,
      State.reclaimAnswer_cycle (by rw [State.afterErase_rcl]; exact hcycle) (by rw [State.afterErase_rcl]; exact hstep),
      State.cycleAnswer_eraseFault _ (by rw [State.afterErase_rcl]; exact hact), hretire,
      State.drain_nil (by
        rw [State.setPlane_agenda]
        exact (s.countEraseFault.afterErase_agenda _ m).trans ha),
      State.startTest_busy (by
        rw [State.setPlane_rcl]
        show (s.countEraseFault.afterErase _ m).rcl.phase ≠ .idle
        rw [State.afterErase_rcl]
        exact fun h => nomatch hphase.symm.trans h)] at hended
    rw [hended]
    refine ⟨?_, ?_, ?_⟩
    · rw [State.sector_setPlane]
      show (State.putSector _ _ _).sector _ = _
      rw [State.sector_putSector_same, State.afterErase_sector]
      rfl
    · rw [State.setPlane_rcl]
    · rw [State.plane_setPlane_same, State.afterErase_plane, State.plane_countEraseFault]

/-- Settles O39. -/
theorem eraseFaults : Obligations.EraseFaults := by
  unfold Obligations.EraseFaults
  intro s p e left he hcond hleft faulted
  have hfaulted := eraseFaulted (s := s) (p := p) (e := e) hleft
  refine ⟨⟨_, ?_, hfaulted⟩, fun hne => ⟨_, ?_, hfaulted⟩⟩
  · show execEraseTimeout p left s = _
    unfold execEraseTimeout
    rw [Plane.endingErase_eq he hcond]
  · have hblank : ¬ flashBlank (flashLoad s.flash e.sector left) e.sector = true := by
      obtain ⟨c, l, rfl⟩ := List.exists_cons_of_ne_nil hne
      obtain ⟨hc, hff⟩ := Sys2Proof.Laws.sectorCellsWf_mem hleft c (List.mem_cons_self ..)
      intro hb
      have hbyte := flashByte_flashLoad s.flash e.sector e.sector hleft hc
      rw [if_pos rfl, cellGet, if_pos rfl, flashByte_of_blank hb hc] at hbyte
      exact hff hbyte.symm
    show execEraseBlankCheck p left s = _
    unfold execEraseBlankCheck
    rw [Plane.endingErase_eq he hcond]
    dsimp only
    rw [if_neg hblank]

end Sys2Proof.Machine

/-! PROOFS. The sector table and the choices made from it (chapters 4 and 9). -/

namespace Sys2Proof.Machine

set_option Elab.async false

/-! ### Changes of the table -/

theorem blankCount_putSector (s : State) (n : SectorNo) (e : SectorEntry) :
    (s.putSector n e).space.blankCount + (if (s.sector n).state = .blank then 1 else 0) =
      s.space.blankCount + (if e.state = .blank then 1 else 0) := by
  have hn : n.val < s.space.sectors.toList.length := by
    rw [Vector.length_toList]
    exact n.isLt
  have hcount := List.countP_set (p := fun x : SectorEntry => x.state == .blank) (a := e) hn
  have hmem : s.space.sectors.toList[n.val] = s.sector n := rfl
  have hpos : (s.sector n).state = .blank → 0 < s.space.sectors.toList.countP (fun x => x.state == .blank) := fun h =>
    List.countP_pos_iff.2 ⟨_, List.getElem_mem hn, beq_iff_eq.2 h⟩
  simp only [hmem, beq_iff_eq] at hcount
  unfold Space.blankCount Space.countState State.putSector
  dsimp only
  rw [Vector.toList_set, hcount]
  by_cases hb : (s.sector n).state = .blank
  · have := hpos hb
    simp only [if_pos hb]
    omega
  · simp only [if_neg hb]
    omega

theorem State.setSector_space (s : State) (n : SectorNo) (e : SectorEntry) : (s.setSector n e).space = (s.putSector n e).space := by
  unfold State.setSector
  exact State.blankMoved_space _ _

/-- SPACE_LOW on a fall of the BLANK count from above LOWMK to at or below it, and no other change of IFLAG. -/
theorem State.blankMoved_iflag (s : State) (k : Nat) : (s.blankMoved k).win.iflag =
    if s.win.lowmk < k ∧ s.space.blankCount ≤ s.win.lowmk then s.win.iflag ||| 0x10 else s.win.iflag := by
  unfold State.blankMoved
  dsimp only
  by_cases hlow : s.win.lowmk < k ∧ s.space.blankCount ≤ s.win.lowmk
  · rw [if_pos hlow, if_pos hlow]
    split <;> rfl
  · rw [if_neg hlow, if_neg hlow]
    split <;> rfl

/-- Settles O46. -/
theorem spaceLowOnCrossing : Obligations.SpaceLowOnCrossing := by
  unfold Obligations.SpaceLowOnCrossing
  intro s n e t
  have hspace : t.space = (s.putSector n e).space := s.setSector_space n e
  rw [hspace]
  exact ⟨blankCount_putSector s n e, State.blankMoved_iflag _ _⟩

/-- The balance of a sector in use (R57), within the sector. -/
def SectorEntry.Balanced (e : SectorEntry) : Prop := e.liveBytes + e.staleBytes + 64 = e.append ∧ e.append ≤ 4096

theorem SectorEntry.Balanced.close {e : SectorEntry} (h : e.Balanced) : e.close.Balanced := by
  obtain ⟨hsum, hmax⟩ := h
  refine ⟨?_, Nat.le_refl _⟩
  show e.liveBytes + (e.staleBytes + (4096 - e.append)) + 64 = 4096
  omega

theorem SectorEntry.Balanced.faulted {e : SectorEntry} (h : e.Balanced) : e.faulted.Balanced := by
  unfold SectorEntry.faulted
  dsimp only
  split
  · exact SectorEntry.Balanced.close (e := { e with suspect := true }) h
  · exact h

theorem SectorEntry.giveBack_place {e : SectorEntry} (fp : Nat) (h : e.isOpen = true) : (e.place fp).giveBack e.append fp = e := by
  have hopen : ((e.place fp).isOpen && (e.place fp).append == e.append + fp) = true :=
    Bool.and_eq_true_iff.2 ⟨h, beq_self_eq_true _⟩
  unfold SectorEntry.giveBack
  rw [if_pos hopen]
  unfold SectorEntry.place
  rw [Nat.add_sub_cancel]

theorem SectorEntry.makeStale_makeLive {e : SectorEntry} {fp : Nat} (h : fp ≤ e.staleBytes) : (e.makeLive fp).makeStale fp = e := by
  unfold SectorEntry.makeLive SectorEntry.makeStale
  dsimp only
  rw [Nat.add_sub_cancel, Nat.sub_add_cancel h, Nat.add_sub_cancel]

/-- Settles O45. -/
theorem balanceKept : Obligations.BalanceKept := by
  unfold Obligations.BalanceKept
  intro e fp q balanced
  refine ⟨fun s n role hlive hstale => ?_, ⟨rfl, Nat.le_refl _⟩, fun h => ?_⟩
  · unfold State.sectorOpened
    rw [State.sector_setSector, if_pos rfl]
    refine ⟨?_, show 64 ≤ 4096 by decide⟩
    show (s.sector n).liveBytes + (s.sector n).staleBytes + 64 = 64
    rw [hlive, hstale]
  · obtain ⟨hsum, hmax⟩ := h
    refine ⟨fun hfit => ⟨⟨?_, hfit⟩, e.giveBack_place fp⟩, fun hfit => ⟨⟨?_, hmax⟩, SectorEntry.makeStale_makeLive hfit⟩,
      fun hfit => ⟨?_, hmax⟩, SectorEntry.Balanced.close ⟨hsum, hmax⟩, Nat.sub_self _, rfl, SectorEntry.Balanced.faulted ⟨hsum, hmax⟩⟩
    · show e.liveBytes + (e.staleBytes + fp) + 64 = e.append + fp
      omega
    · show e.liveBytes + fp + (e.staleBytes - fp) + 64 = e.append
      omega
    · show e.liveBytes - fp + (e.staleBytes + fp) + 64 = e.append
      omega

/-! ### The best of the sectors that qualify -/

section Best
variable {α : Type} [LinearOrder α] {q : SectorNo → Bool} {better : SectorNo → SectorNo → Bool} {key : SectorNo → α}

theorem bestSector_eq_none : ∀ {l : List SectorNo}, bestSector q better l = none ↔ ∀ m ∈ l, q m = false
  | [] => ⟨fun _ _ h => (nomatch h), fun _ => rfl⟩
  | a :: l => by
    rw [bestSector, List.forall_mem_cons]
    cases hl : bestSector q better l with
    | none =>
      have hrest := bestSector_eq_none.1 hl
      cases hq : q a
      · exact ⟨fun _ => ⟨rfl, hrest⟩, fun _ => rfl⟩
      · exact ⟨fun h => (nomatch h), fun h => nomatch h.1⟩
    | some m =>
      have hne : ¬ ∀ m ∈ l, q m = false := fun h => nomatch hl.symm.trans (bestSector_eq_none.2 h)
      dsimp only
      split <;> simp [hne]

/-- The sector chosen qualifies, and each other that does is worse, or as good and of a higher number. -/
theorem bestSector_spec (hb : ∀ a b, better a b = true ↔ key a < key b) : ∀ {l : List SectorNo} {n : SectorNo}, l.Pairwise (· < ·) →
    bestSector q better l = some n → n ∈ l ∧ q n = true ∧ ∀ m ∈ l, q m = true → key n < key m ∨ key n = key m ∧ n ≤ m
  | [], _, _, h => nomatch h
  | a :: l, n, hp, h => by
    obtain ⟨hfirst, hrest⟩ := List.pairwise_cons.1 hp
    rw [bestSector] at h
    cases hl : bestSector q better l with
    | none =>
      rw [hl] at h
      dsimp only at h
      split at h
      · next hq =>
        cases h
        refine ⟨List.mem_cons_self .., hq, fun m hm hqm => ?_⟩
        rcases List.mem_cons.1 hm with rfl | hm
        · exact .inr ⟨rfl, le_refl _⟩
        · exact absurd hqm (by rw [bestSector_eq_none.1 hl m hm]; exact Bool.false_ne_true)
      · cases h
    | some k =>
      obtain ⟨hk, hqk, hbest⟩ := bestSector_spec hb hrest hl
      rw [hl] at h
      dsimp only at h
      split at h
      · next hq =>
        cases h
        rw [Bool.and_eq_true, Bool.not_eq_true', ← Bool.not_eq_true, hb, not_lt] at hq
        refine ⟨List.mem_cons_self .., hq.1, fun m hm hqm => ?_⟩
        rcases List.mem_cons.1 hm with rfl | hm
        · exact .inr ⟨rfl, le_refl _⟩
        · rcases hbest m hm hqm with hlt | ⟨heq, -⟩
          · exact .inl (lt_of_le_of_lt hq.2 hlt)
          · rcases lt_or_eq_of_le hq.2 with hlt | he
            · exact .inl (heq ▸ hlt)
            · exact .inr ⟨he.trans heq, le_of_lt (hfirst m hm)⟩
      · next hq =>
        cases h
        refine ⟨List.mem_cons_of_mem _ hk, hqk, fun m hm hqm => ?_⟩
        rcases List.mem_cons.1 hm with rfl | hm
        · rw [hqm, Bool.true_and, Bool.not_eq_true', Bool.not_eq_false, hb] at hq
          exact .inl hq
        · exact hbest m hm hqm

end Best

theorem pairwise_allSectors : allSectors.Pairwise (· < ·) := List.pairwise_ofFn.2 fun _ _ h => h

/-- The best of all sectors that qualify. -/
theorem bestSector_allSectors {α : Type} [LinearOrder α] {q : SectorNo → Bool} {better : SectorNo → SectorNo → Bool}
    {key : SectorNo → α} (hb : ∀ a b, better a b = true ↔ key a < key b) {n : SectorNo}
    (h : bestSector q better allSectors = some n) :
    q n = true ∧ ∀ m, q m = true → key n < key m ∨ key n = key m ∧ n ≤ m := by
  obtain ⟨-, hq, hbest⟩ := bestSector_spec hb pairwise_allSectors h
  exact ⟨hq, fun m => hbest m (mem_allSectors m)⟩

theorem bestSector_allSectors_none {q : SectorNo → Bool} {better : SectorNo → SectorNo → Bool} :
    bestSector q better allSectors = none ↔ ∀ m, q m = false :=
  bestSector_eq_none.trans ⟨fun h m => h m (mem_allSectors m), fun h m _ => h m⟩

/-! ### The choice of SELECT -/

theorem State.evacuable_iff {s : State} {m : SectorNo} :
    s.evacuable m = true ↔ (s.sector m).state = .full ∧ ∀ x ∈ s.rcl.excluded, x.sector ≠ m := by
  unfold State.evacuable
  rw [Bool.and_eq_true, beq_iff_eq, Bool.not_eq_true', List.any_eq_false]
  simp only [beq_iff_eq, ne_eq]

/-- The lowest-numbered suspect sector (R160). -/
def State.suspectVictim (s : State) : Option SectorNo := allSectors.find? (fun n => s.evacuable n && (s.sector n).suspect)

/-- The sector that levelling takes (R160). -/
def State.levelVictim (s : State) : Option SectorNo :=
  if s.space.spreadExceeds s.win.wearsp && !s.writeWaits then
    bestSector s.evacuable (fun m n => decide ((s.sector m).eraseCount < (s.sector n).eraseCount)) allSectors
  else none

/-- The sector of the most stale bytes (R160). -/
def State.stalestVictim (s : State) : Option SectorNo :=
  bestSector (fun n => s.evacuable n && decide (0 < (s.sector n).staleBytes))
    (fun m n => decide ((s.sector n).staleBytes < (s.sector m).staleBytes) ||
      (decide ((s.sector m).staleBytes = (s.sector n).staleBytes) &&
        decide ((s.sector m).eraseCount < (s.sector n).eraseCount))) allSectors

theorem State.chooseVictim_eq (s : State) : s.chooseVictim = (s.suspectVictim <|> s.levelVictim <|> s.stalestVictim) := rfl

/-- Levelling applies (R160). -/
def State.Levels (s : State) : Prop := s.space.spreadExceeds s.win.wearsp = true ∧ s.engineState ≠ .waitSpace

theorem State.levels_iff {s : State} : (s.space.spreadExceeds s.win.wearsp && !s.writeWaits) = true ↔ s.Levels := by
  unfold State.Levels State.writeWaits
  rw [Bool.and_eq_true, Bool.not_eq_true', beq_eq_false_iff_ne]

section Victims
variable {s : State} {n : SectorNo}

theorem State.suspectVictim_none : s.suspectVictim = none ↔ ∀ m, s.evacuable m = true → (s.sector m).suspect = false := by
  unfold State.suspectVictim
  rw [find?_allSectors_none]
  refine forall_congr' fun m => ?_
  cases s.evacuable m <;> simp

theorem State.suspectVictim_some (h : s.suspectVictim = some n) : s.evacuable n = true ∧ (s.sector n).suspect = true ∧
    ∀ m, s.evacuable m = true → (s.sector m).suspect = true → n ≤ m := by
  obtain ⟨hn, hlow⟩ := find?_allSectors.1 h
  rw [Bool.and_eq_true] at hn
  refine ⟨hn.1, hn.2, fun m hm hs => not_lt.1 fun hlt => ?_⟩
  exact absurd (hlow m hlt) (by rw [hm, hs]; exact fun h => nomatch h)

theorem State.levelVictim_none : s.levelVictim = none ↔ ∀ m, s.evacuable m = true → ¬ s.Levels := by
  unfold State.levelVictim
  by_cases hl : (s.space.spreadExceeds s.win.wearsp && !s.writeWaits) = true
  · rw [if_pos hl, bestSector_allSectors_none]
    refine forall_congr' fun m => ?_
    rw [← Bool.not_eq_true]
    exact ⟨fun h hm => absurd hm h, fun h hm => h hm (State.levels_iff.1 hl)⟩
  · rw [if_neg hl]
    exact ⟨fun _ _ _ hlev => hl (State.levels_iff.2 hlev), fun _ => rfl⟩

theorem State.levelVictim_some (h : s.levelVictim = some n) : s.Levels ∧ s.evacuable n = true ∧
    ∀ m, s.evacuable m = true → (s.sector n).eraseCount < (s.sector m).eraseCount ∨
      (s.sector n).eraseCount = (s.sector m).eraseCount ∧ n ≤ m := by
  unfold State.levelVictim at h
  split at h
  · next hl => exact ⟨State.levels_iff.1 hl, bestSector_allSectors (fun _ _ => decide_eq_true_iff) h⟩
  · cases h

/-- The key by which the stalest sector is chosen: the most stale bytes first, then the fewest erases. -/
def SectorEntry.staleKey (e : SectorEntry) : Lex (Natᵒᵈ × Nat) := toLex (OrderDual.toDual e.staleBytes, e.eraseCount)

theorem SectorEntry.staleKey_lt {d e : SectorEntry} : d.staleKey < e.staleKey ↔
    e.staleBytes < d.staleBytes ∨ d.staleBytes = e.staleBytes ∧ d.eraseCount < e.eraseCount := Prod.Lex.toLex_lt_toLex

theorem SectorEntry.staleKey_eq {d e : SectorEntry} : d.staleKey = e.staleKey ↔
    d.staleBytes = e.staleBytes ∧ d.eraseCount = e.eraseCount := Prod.ext_iff

theorem State.stalestVictim_none : s.stalestVictim = none ↔ ∀ m, s.evacuable m = true → (s.sector m).staleBytes = 0 := by
  unfold State.stalestVictim
  rw [bestSector_allSectors_none]
  refine forall_congr' fun m => ?_
  cases s.evacuable m <;> simp

theorem State.stalestVictim_some (h : s.stalestVictim = some n) : s.evacuable n = true ∧ 0 < (s.sector n).staleBytes ∧
    ∀ m, s.evacuable m = true → 0 < (s.sector m).staleBytes → (s.sector m).staleBytes < (s.sector n).staleBytes ∨
      (s.sector m).staleBytes = (s.sector n).staleBytes ∧ ((s.sector n).eraseCount < (s.sector m).eraseCount ∨
        (s.sector n).eraseCount = (s.sector m).eraseCount ∧ n ≤ m) := by
  obtain ⟨hq, hbest⟩ := bestSector_allSectors (key := fun k => (s.sector k).staleKey) (fun a b => by
    rw [SectorEntry.staleKey_lt, Bool.or_eq_true, Bool.and_eq_true, decide_eq_true_iff, decide_eq_true_iff, decide_eq_true_iff]) h
  rw [Bool.and_eq_true, decide_eq_true_iff] at hq
  refine ⟨hq.1, hq.2, fun m hm hs => ?_⟩
  have hm := hbest m (by rw [hm, decide_eq_true hs]; rfl)
  rw [SectorEntry.staleKey_lt, SectorEntry.staleKey_eq] at hm
  rcases hm with (hlt | ⟨he, hlt⟩) | ⟨⟨he, hcount⟩, hle⟩
  · exact .inl hlt
  · exact .inr ⟨he.symm, .inl hlt⟩
  · exact .inr ⟨he.symm, .inr ⟨hcount, hle⟩⟩

end Victims

theorem State.chooseVictim_none {s : State} : s.chooseVictim = none ↔
    s.suspectVictim = none ∧ s.levelVictim = none ∧ s.stalestVictim = none := by
  rw [State.chooseVictim_eq, Option.orElse_eq_none, Option.orElse_eq_none]

theorem State.chooseVictim_some {s : State} {n : SectorNo} : s.chooseVictim = some n ↔ s.suspectVictim = some n ∨
    s.suspectVictim = none ∧ (s.levelVictim = some n ∨ s.levelVictim = none ∧ s.stalestVictim = some n) := by
  rw [State.chooseVictim_eq, Option.orElse_eq_some, Option.orElse_eq_some]

theorem State.evacuable_of_victim {s : State} {n : SectorNo} (h : s.chooseVictim = some n) : s.evacuable n = true := by
  rcases State.chooseVictim_some.1 h with h | ⟨-, h | ⟨-, h⟩⟩
  · exact (State.suspectVictim_some h).1
  · exact (State.levelVictim_some h).2.1
  · exact (State.stalestVictim_some h).1

/-- Settles O44. -/
theorem sectorChoices : Obligations.SectorChoices := by
  unfold Obligations.SectorChoices
  refine ⟨fun x n h => ?_, fun x h m hm => ?_, ?_⟩
  · obtain ⟨hq, hbest⟩ := bestSector_allSectors (key := fun k : SectorNo => x.sectors[k].eraseCount) (fun _ _ => decide_eq_true_iff) h
    exact ⟨eq_of_beq hq, fun m hm => hbest m (beq_iff_eq.2 hm)⟩
  · have hno := bestSector_allSectors_none.1 h m
    rw [beq_iff_eq.2 hm] at hno
    cases hno
  · intro s open_ levels
    have hopen : ∀ m, open_ m ↔ s.evacuable m = true := fun m => State.evacuable_iff.symm
    simp only [hopen]
    constructor
    · rw [State.chooseVictim_none, State.suspectVictim_none, State.levelVictim_none, State.stalestVictim_none]
      exact ⟨fun ⟨hs, hl, ht⟩ m hm => ⟨hs m hm, ht m hm, hl m hm⟩,
        fun h => ⟨fun m hm => (h m hm).1, fun m hm => (h m hm).2.2, fun m hm => (h m hm).2.1⟩⟩
    · intro n h
      refine ⟨State.evacuable_of_victim h, fun ⟨m, hm, hsus⟩ => ?_, fun hclean => ?_⟩
      · rcases State.chooseVictim_some.1 h with h | ⟨h, -⟩
        · exact (State.suspectVictim_some h).2
        · exact absurd hsus (by rw [State.suspectVictim_none.1 h m hm]; exact Bool.false_ne_true)
      · have hnone : s.suspectVictim = none := State.suspectVictim_none.2 hclean
        rcases State.chooseVictim_some.1 h with h | ⟨-, h | ⟨hl, h⟩⟩
        · exact nomatch hnone.symm.trans h
        · obtain ⟨hlevels, -, hbest⟩ := State.levelVictim_some h
          exact ⟨fun _ => hbest, fun hnot => absurd hlevels hnot⟩
        · obtain ⟨hn, hbest⟩ := State.stalestVictim_some h
          exact ⟨fun hlevels => absurd hlevels (State.levelVictim_none.1 hl n hn), fun _ => hbest⟩

end Sys2Proof.Machine

/-! PROOFS. SELECT of the reclaim engine (sections 9.2 and 9.3). -/

namespace Sys2Proof.Machine

set_option Elab.async false

/-! ### SELECT names a sector -/

theorem State.exec_select {s : State} (hphase : s.rcl.phase = .select) (hact : s.rcl.act = .select) :
    exec .select s = .next s.selectRow.settle := by
  have hbusy : s.startTest = s := State.startTest_busy (by rw [hphase]; exact fun h => nomatch h)
  show execSelect s = _
  unfold execSelect
  dsimp only
  rw [hbusy, if_pos hact]

theorem Exclusion.stands_iff {x : Exclusion} {idx : KeyIndex} : x.stands idx = true ↔
    ∃ e, idx.lookup x.key = some e ∧ e.place = { sector := x.sector, offset := x.offset } := by
  unfold Exclusion.stands
  cases idx.lookup x.key with
  | none => exact ⟨fun h => (nomatch h), fun ⟨_, h, _⟩ => nomatch h⟩
  | some e =>
    rw [beq_iff_eq]
    exact ⟨fun h => ⟨e, rfl, h⟩, fun ⟨_, h, hp⟩ => Option.some.inj h ▸ hp⟩

theorem State.mem_pruneExcluded {s : State} {x : Exclusion} : x ∈ s.pruneExcluded.rcl.excluded ↔ x ∈ s.rcl.excluded ∧
    ∃ e, s.idx.lookup x.key = some e ∧ e.place = { sector := x.sector, offset := x.offset } := by
  rw [← Exclusion.stands_iff]
  exact List.mem_filter

/-- ERASE begins in a sector that is neither BLANK nor FULL (R67, R169). -/
theorem State.takeForErase_erasing {s : State} {n : SectorNo} (hc : (s.sector n).eraseCount < 100000)
    (hblank : (s.sector n).state ≠ .blank) (hfull : (s.sector n).state ≠ .full) (hidle : (s.plane (planeOf n)).Idle) :
    s.takeForErase n = State.setPlane { s.putSector n ((s.sector n).leaveUse .erasing) with
      rcl := { s.rcl with
        phase := .erase, act := .readMark, noVictim := s.rcl.noVictim && !clearsLatch (s.sector n) ((s.sector n).leaveUse .erasing) } }
      (planeOf n) ((s.plane (planeOf n)).withRun .reclaim n 3 (.read 1)) := by
  have hlimit : ¬ Config.eraseLimit ≤ (s.sector n).eraseCount := Nat.not_le.2 hc
  have hout := State.setSector_notBlank (s := s) (n := n) (e := (s.sector n).leaveUse .erasing) hblank (fun h => nomatch h)
  rw [if_neg (fun h => hfull h.1)] at hout
  unfold State.takeForErase
  rw [if_neg hlimit]
  unfold State.sectorOut State.beginErase State.claimRead
  rw [hout]
  dsimp only
  rw [State.claim_idle (by exact cast (congrArg Plane.Idle (State.plane_faulted s n _ _ _).symm) hidle) rfl]
  cases planeOf n <;> rfl

/-- The walk of a FULL sector begins (R161, R162). -/
theorem State.takeVictim_eq {s : State} {n : SectorNo} (hfull : (s.sector n).state = .full) (hstop : s.rcl.stop = .none)
    (hidle : (s.plane (planeOf n)).Idle) :
    s.takeVictim n = State.setPlane { s.putSector n { s.sector n with state := .victim } with
      rcl := { s.rcl with
        phase := .evacuate, act := .readDesc, pos := 64, excluded := s.rcl.excluded.filter (fun x => x.sector != n)
        noVictim := s.rcl.noVictim && !clearsLatch (s.sector n) { s.sector n with state := .victim } } }
      (planeOf n) ((s.plane (planeOf n)).withRun .reclaim n 8 (.read 1)) := by
  have hset := State.setSector_notBlank (s := s) (n := n) (e := { s.sector n with state := .victim })
    (by rw [hfull]; exact fun h => nomatch h) (fun h => nomatch h)
  rw [if_pos ⟨hfull, fun h => nomatch h⟩] at hset
  have hstart : ¬ chainPastEnd 64 = true := by decide
  unfold State.takeVictim State.nextRecord
  dsimp only
  rw [hset]
  dsimp only
  rw [if_neg hstart, if_pos hstop]
  unfold State.claimRead
  rw [State.claim_idle (by exact cast (congrArg Plane.Idle (State.plane_faulted s n _ _ _).symm) hidle) rfl]
  cases planeOf n <;> rfl

/-- Settles O42. -/
theorem selectNamesSector : Obligations.SelectNamesSector := by
  unfold Obligations.SelectNamesSector
  intro s n ha hphase hact hstop hidle stands
  have hexec := State.exec_select hphase hact
  have hsettle : ∀ x : State, x.agenda = [] → x.rcl.phase ≠ .idle → x.settle = x := fun x hx hp => by
    rw [State.settle_nil hx, State.startTest_busy hp]
  have hstands : ∀ x, x ∈ s.pruneExcluded.rcl.excluded ↔ stands x := fun x => State.mem_pruneExcluded
  refine ⟨fun hn hlow hc => ?_, fun hn hlow hc h7 => ?_, fun hno hv => ?_⟩
  · have hfind : s.pruneExcluded.space.findState .erasePending = some n :=
      (State.findState_iff (s := s.pruneExcluded)).2 ⟨hn, hlow⟩
    unfold State.selectRow at hexec
    dsimp only at hexec
    rw [hfind] at hexec
    dsimp only at hexec
    rw [State.takeForErase_erasing (by exact hc) (by exact fun h => nomatch hn.symm.trans h) (by exact fun h => nomatch hn.symm.trans h)
      (by exact hidle), hsettle _ (by rw [State.setPlane_agenda]; exact ha) (by rw [State.setPlane_rcl]; exact fun h => nomatch h)]
      at hexec
    refine ⟨_, hexec, ?_, fun x => ?_⟩
    · cases planeOf n <;> rfl
    · rw [State.setPlane_rcl]
      exact hstands x
  · have hfind : s.pruneExcluded.space.findState .erasePending = some n :=
      (State.findState_iff (s := s.pruneExcluded)).2 ⟨hn, hlow⟩
    have hlimit : Config.eraseLimit ≤ (s.sector n).eraseCount := hc
    unfold State.selectRow at hexec
    dsimp only at hexec
    rw [hfind] at hexec
    dsimp only at hexec
    unfold State.takeForErase at hexec
    rw [if_pos (by exact hlimit), State.beginRetire_eq _ (by exact fun h => nomatch hn.symm.trans h)
      (by exact fun h => nomatch hn.symm.trans h) (by exact hstop) (by exact h7) (by exact hidle),
      hsettle _ (by rw [State.setPlane_agenda]; exact ha)
        (by rw [State.setPlane_rcl]; exact fun h => nomatch hphase.symm.trans h)] at hexec
    refine ⟨_, hexec, ?_, fun x => ?_⟩
    · cases planeOf n <;> rfl
    · rw [State.setPlane_rcl]
      exact hstands x
  · have hfind : s.pruneExcluded.space.findState .erasePending = none := (State.findState_none (s := s.pruneExcluded)).2 hno
    have hfull : (s.sector n).state = .full := (State.evacuable_iff.1 (State.evacuable_of_victim hv)).1
    unfold State.selectRow at hexec
    dsimp only at hexec
    rw [hfind, hv] at hexec
    dsimp only at hexec
    rw [State.takeVictim_eq (by exact hfull) (by exact hstop) (by exact hidle),
      hsettle _ (by rw [State.setPlane_agenda]; exact ha) (by rw [State.setPlane_rcl]; exact fun h => nomatch h)] at hexec
    refine ⟨_, hexec, ?_, fun x => ?_⟩
    · cases planeOf n <;> rfl
    · rw [State.setPlane_rcl, ← hstands, ← bne_iff_ne]
      exact List.mem_filter

/-! ### SELECT names none -/

theorem State.settle_signal {s : State} (h : s.agenda = []) (x : Signal) :
    (s.signal x).settle = ((s.deliver x).drain 255).startTest := by
  have hself : ({ s.signal x with agenda := [] } : State) = s := by
    rw [← h]
    rfl
  rw [State.settle, settleFuel, State.drain_cons (x := x) (l := []) (congrArg (· ++ [x]) h), hself]

/-- The taking of the head changes the window unit and the request engine alone. -/
theorem State.takeHead_eq (s : State) : ∃ w e, s.takeHead = { s with win := w, eng := e } := by
  unfold State.takeHead
  split
  · split
    · exact ⟨_, _, rfl⟩
    · exact ⟨s.win, s.eng, rfl⟩
  · exact ⟨s.win, s.eng, rfl⟩

/-- The state in which SELECT has named no sector: the latch is set, and the reclaim engine is IDLE again (R161, R157). -/
def State.noneSelected (s : State) : State :=
  { s with
    rcl := { s.pruneExcluded.rcl.idled with noVictim := true }
    win := { s.win with iflag := s.win.iflag ||| 0x80 } }

theorem State.selectRow_none {s : State} (hno : ∀ n, (s.sector n).state ≠ .erasePending) (hv : s.pruneExcluded.chooseVictim = none)
    (hstop : s.rcl.stop = .none) : s.selectRow = s.noneSelected.signal (.cycleEnded .noVictim) := by
  have hfind : s.pruneExcluded.space.findState .erasePending = none := (State.findState_none (s := s.pruneExcluded)).2 hno
  have hdrop : ¬ s.rcl.stop = .readOnly := by
    rw [hstop]
    exact fun h => nomatch h
  unfold State.selectRow
  dsimp only
  rw [hfind, hv]
  dsimp only
  unfold State.endCycle
  dsimp only
  rw [if_neg (by exact hdrop)]
  rfl

/-- `t` is `s` but for the window unit, the request engine, and the hold and waiter of the index. -/
def State.EngineMoved (s t : State) : Prop := ∃ w e x, t = { s with win := w, eng := e, idx := x } ∧ x.entries = s.idx.entries

/-- No request waits for the reclaim engine. -/
def State.NoneWaits (s : State) : Prop := ∀ r, s.eng.req = some r → r.phase ≠ .waitSpace ∧ r.phase ≠ .cycle

/-- The ending step of a request when a cycle has ended: it moves the engine, and the request taken next waits for nothing. -/
theorem State.endPlain_moved {s : State} (r : Request) (code : ResultCode) (ha : s.agenda = []) (hact : s.rcl.act ≠ .heldWait) :
    s.EngineMoved ((s.endPlain r code).drain 255) ∧ ((s.endPlain r code).drain 255).NoneWaits := by
  unfold State.endPlain
  rw [State.endRequest_drain r code _ ha (fun _ => hact) 253]
  constructor
  · obtain ⟨w, e, h⟩ := (s.ending r code ResultFields.zero).takeHead_eq
    exact ⟨w, e, s.idx.freed, h, rfl⟩
  · intro q hq
    rw [State.takeHead_fresh rfl q hq]
    exact ⟨fun h => (nomatch h), fun h => nomatch h⟩

/-- The end of a cycle without a sector named reaches the request engine (R136, R124). -/
theorem State.cycleEnded_noVictim {s : State} (ha : s.agenda = []) (hact : s.rcl.act ≠ .heldWait)
    (hstop : ∀ r, s.eng.req = some r → r.phase ≠ .stopReclaim) :
    s.EngineMoved ((s.deliver (.cycleEnded .noVictim)).drain 255) ∧ ((s.deliver (.cycleEnded .noVictim)).drain 255).NoneWaits := by
  have hself : s.NoneWaits → s.EngineMoved (s.drain 255) ∧ (s.drain 255).NoneWaits := fun h => by
    rw [State.drain_nil ha]
    exact ⟨⟨s.win, s.eng, s.idx, rfl, rfl⟩, h⟩
  show s.EngineMoved ((s.requestCycleEnded .noVictim).drain 255) ∧ ((s.requestCycleEnded .noVictim).drain 255).NoneWaits
  unfold State.requestCycleEnded
  cases hr : s.eng.req with
  | none => exact hself fun r h => nomatch hr.symm.trans h
  | some r =>
    have hother : r.phase ≠ .waitSpace → r.phase ≠ .cycle → s.NoneWaits := fun h1 h2 q hq => by
      obtain rfl : r = q := Option.some.inj (hr.symm.trans hq)
      exact ⟨h1, h2⟩
    dsimp only
    cases hp : r.phase with
    | cycle => exact State.endPlain_moved _ _ ha hact
    | waitSpace => exact State.endPlain_moved _ _ ha hact
    | stopReclaim => exact absurd hp (hstop r hr)
    | _ => exact hself (hother (by rw [hp]; exact fun h => nomatch h) (by rw [hp]; exact fun h => nomatch h))

/-- With the no-victim latch set, no sector ERASE_PENDING and no request waiting for it, the reclaim engine starts no cycle (R156). -/
theorem State.startTest_latched {s : State} (hno : ∀ n, (s.sector n).state ≠ .erasePending) (hlatch : s.rcl.noVictim = true)
    (hw : s.NoneWaits) : s.startTest = s := by
  unfold State.startTest
  rw [if_neg]
  intro hgo
  rcases State.startCondition_iff.1 (Bool.and_eq_true_iff.1 hgo).2 with ⟨n, hn⟩ | ⟨r, hr, hp⟩ | ⟨-, h, -⟩
  · exact hno n hn
  · exact hp.elim (hw r hr).1 (hw r hr).2
  · exact nomatch hlatch.symm.trans h

/-- The ending step of a standing request when a cycle has ended. -/
theorem State.Standing.cycleEnded_slot {s t : State} {r q : Request} {code : ResultCode} (h : s.Standing r) (hq : q.slot = r.slot)
    (hd : s.noneSelected.requestCycleEnded .noVictim = s.noneSelected.endPlain q code)
    (ht : t = ((s.noneSelected.requestCycleEnded .noVictim).drain 255).startTest) : t.slot r.slot = { s.slot r.slot with
      state := .done, code := code, fields := ResultFields.zero, flags := q.flags, ptr := 0 } := by
  have hend := State.endRequest_drain_ended (s := s.noneSelected) (r := q) (code := code) (f := ResultFields.zero) h.quiet h.noHold
    h.noWaiter (by rw [hq]; exact h.visible) (by rw [hq]; exact h.notQueued) 254
  rw [ht, hd, ← hq]
  exact hend.slot

/-- Settles O43. -/
theorem selectNoVictim : Obligations.SelectNoVictim := by
  unfold Obligations.SelectNoVictim
  intro s ha hphase hact hstop hno hv hformat
  have hexec := State.exec_select hphase hact
  rw [State.selectRow_none hno hv hstop, State.settle_signal (s := s.noneSelected) ha] at hexec
  obtain ⟨⟨w, e, x, hu, hx⟩, hnone⟩ := State.cycleEnded_noVictim (s := s.noneSelected) ha (fun h => nomatch h) hformat
  have hevolves : Evolves s.noneSelected ((s.noneSelected.deliver (.cycleEnded .noVictim)).drain 255) :=
    Evolves.drain 255 (Evolves.refl s.noneSelected).deliver
  have hstart := State.startTest_latched (s := (s.noneSelected.deliver (.cycleEnded .noVictim)).drain 255)
    (by rw [hu]; exact hno) (by rw [hu]; rfl) hnone
  refine ⟨_, hexec, ?_, ?_, ?_, ?_, ?_, ?_, ?_, ?_, ?_, fun hr _ => ?_, fun r h hp => ?_, fun r h hp => ?_⟩
  · rw [hstart, hu]
    rfl
  · rw [hstart, hu]
    rfl
  · rw [hstart, hu]
    rfl
  · rw [hstart]
    have hbit := congrArg (fun b : Byte => b.getLsbD 7) hevolves.iflag
    refine hbit.symm.trans ?_
    show BitVec.getLsbD ((s.win.iflag ||| 0x80) ||| _) 7 = true
    rw [BitVec.getLsbD_or, BitVec.getLsbD_or, show BitVec.getLsbD (0x80 : Byte) 7 = true by decide, Bool.or_true, Bool.true_or]
  · rw [hstart, hu]
    rfl
  · rw [hstart, hu]
    exact hx
  · rw [hstart, hu]
    rfl
  · rw [hstart, hu]
    rfl
  · rw [hstart, hu]
    rfl
  · have hsame : s.noneSelected.deliver (.cycleEnded .noVictim) = s.noneSelected := by
      show s.noneSelected.requestCycleEnded .noVictim = _
      unfold State.requestCycleEnded
      rw [show s.noneSelected.eng.req = none from hr]
    rw [hstart, hsame, State.drain_nil (by exact ha)]
    rfl
  · refine h.cycleEnded_slot (q := { r with flags := { r.flags with noVictim := true } }) rfl ?_ rfl
    unfold State.requestCycleEnded
    rw [show s.noneSelected.eng.req = some r from h.active]
    dsimp only
    rw [hp]
  · refine h.cycleEnded_slot (q := r) rfl ?_ rfl
    unfold State.requestCycleEnded
    rw [show s.noneSelected.eng.req = some r from h.active]
    dsimp only
    rw [hp]

end Sys2Proof.Machine

/-! PROOFS. The on-flash format: header checks, the CRC-16, and what a record reads as (chapter 3). -/

namespace Sys2Proof.Machine

set_option Elab.async false

/-! ### The header checks -/

theorem xorBytes_cons (a : Byte) (l : List Byte) : xorBytes (a :: l) = a ^^^ xorBytes l := by
  have hfold : ∀ (l : List Byte) (x : Byte), l.foldl (· ^^^ ·) x = x ^^^ xorBytes l := by
    intro l
    induction l with
    | nil => exact fun x => BitVec.xor_zero.symm
    | cons b l ih =>
      intro x
      show l.foldl (· ^^^ ·) (x ^^^ b) = x ^^^ l.foldl (· ^^^ ·) (0 ^^^ b)
      rw [ih, ih, show (0 : Byte) ^^^ b = b from BitVec.zero_xor, BitVec.xor_assoc]
  show l.foldl (· ^^^ ·) (0 ^^^ a) = _
  rw [hfold, show (0 : Byte) ^^^ a = a from BitVec.zero_xor]

/-- One byte other than before makes another exclusive or. -/
theorem xorBytes_set_ne : ∀ {l : List Byte} {i : Nat} {b : Byte}, i < l.length → b ≠ l.getD i 0 → xorBytes (l.set i b) ≠ xorBytes l
  | a :: l, 0, b, _, hb => fun h => by
    rw [List.set_cons_zero, xorBytes_cons, xorBytes_cons] at h
    exact hb ((BitVec.xor_left_inj _).1 h)
  | a :: l, i + 1, b, hi, hb => fun h => by
    rw [List.set_cons_succ, xorBytes_cons, xorBytes_cons] at h
    exact xorBytes_set_ne (Nat.lt_of_succ_lt_succ hi) hb ((BitVec.xor_right_inj _).1 h)

/-- A check byte behind the bytes it checks fails for every change of one of them. -/
theorem check_set_ne {m : List Byte} {x c b : Byte} {i : Nat} (hx : x = xorBytes m ^^^ c) (hi : i < m.length + 1)
    (hb : b ≠ (m ++ [x]).getD i 0) :
    ((m ++ [x]).set i b).getD m.length 0 ≠ xorBytes (((m ++ [x]).set i b).take m.length) ^^^ c := by
  by_cases h : i < m.length
  · rw [List.getD_append _ _ _ _ h] at hb
    rw [List.set_append_left _ _ h, List.getD_append_right _ _ _ _ (by rw [List.length_set]), List.take_left' (List.length_set ..),
      List.length_set, Nat.sub_self, hx]
    exact fun he => xorBytes_set_ne h hb ((BitVec.xor_left_inj _).1 he).symm
  · obtain rfl : i = m.length := by omega
    rw [List.getD_append_right _ _ _ _ (Nat.le_refl _), Nat.sub_self] at hb
    rw [List.set_append_right _ _ (Nat.le_refl _), List.getD_append_right _ _ _ _ (Nat.le_refl _), List.take_left, Nat.sub_self]
    exact fun he => hb (he.trans hx.symm)

/-- The bytes that the header check covers (R40). -/
def identityBytes (gen count : Nat) : List Byte := [0x6D, 0x1E] ++ toBytes gen 2 ++ toBytes count 3

theorem identityGranule_eq (gen count : Nat) :
    identityGranule gen count = identityBytes gen count ++ [xorBytes (identityBytes gen count) ^^^ 0x5A] := rfl

theorem readIdentity_identityGranule {gen count : Nat} (hg : 1 ≤ gen) (hg' : gen ≤ 65535) (hc : count < 16777216) :
    readIdentity (identityGranule gen count) = .valid gen count := by
  have hgen : ofBytes (((identityGranule gen count).drop 2).take 2) = gen :=
    (ofBytes_toBytes gen 2).trans (Nat.mod_eq_of_lt (by omega))
  have hcount : ofBytes (((identityGranule gen count).drop 4).take 3) = count :=
    (ofBytes_toBytes count 3).trans (Nat.mod_eq_of_lt (by omega))
  have herased : ¬ allErased (identityGranule gen count) = true := fun h => nomatch h
  unfold readIdentity
  rw [if_neg herased, hgen, hcount, if_pos ⟨rfl, by omega, rfl⟩]

/-- One byte changed leaves one of the two bytes of the format mark, so that the granule does not read erased. -/
theorem not_allErased_identity_set {gen count i : Nat} {b : Byte} : ¬ allErased ((identityGranule gen count).set i b) = true := by
  intro h
  match i with
  | 0 => exact nomatch allErased_iff.1 h 1 (Nat.lt_of_sub_eq_succ rfl)
  | i + 1 => exact nomatch allErased_iff.1 h 0 (Nat.succ_pos _)

theorem readIdentity_set {gen count i : Nat} {b : Byte} (hi : i < 8) (hb : b ≠ (identityGranule gen count).getD i 0) :
    readIdentity ((identityGranule gen count).set i b) = .damaged := by
  have hcheck := check_set_ne (m := identityBytes gen count) (c := 0x5A) rfl hi hb
  unfold readIdentity
  rw [if_neg not_allErased_identity_set, if_neg (fun h => hcheck h.2.2)]

theorem readOpen_openGranule {seq : Nat} {role : Byte} (hs : seq < 4294967296) (hr : role = 0x01 ∨ role = 0x02) :
    readOpen (openGranule seq role) = .valid seq role := by
  have hseq : ofBytes ((openGranule seq role).take 4) = seq := (ofBytes_toBytes seq 4).trans (Nat.mod_eq_of_lt (by omega))
  have herased : ¬ allErased (openGranule seq role) = true := fun h => by
    have hrole : role = 0xFF := allErased_iff.1 h 4 (Nat.lt_of_sub_eq_succ rfl)
    rcases hr with rfl | rfl <;> exact absurd hrole (by decide)
  unfold readOpen
  rw [if_neg herased, hseq, if_pos ⟨hr, rfl, rfl⟩]
  rfl

/-- Settles O50. -/
theorem headerGranulesReadBack : Obligations.HeaderGranulesReadBack :=
  ⟨fun _ _ hg hg' hc => ⟨rfl, readIdentity_identityGranule hg hg' hc, fun _ _ => readIdentity_set⟩,
    fun _ _ hs hr => ⟨rfl, readOpen_openGranule hs hr⟩⟩

/-! ### The CRC-16 -/

theorem getLsbD_crcBit_zero (r : BitVec 16) : (crcBit r).getLsbD 0 = r.getLsbD 15 := by
  unfold crcBit
  split
  · next h => rw [h, BitVec.getLsbD_xor]; simp
  · next h => rw [Bool.not_eq_true] at h; rw [h]; simp

theorem crcBit_injective {r x : BitVec 16} (h : crcBit r = crcBit x) : r = x := by
  have hmsb : r.getLsbD 15 = x.getLsbD 15 := by
    rw [← getLsbD_crcBit_zero, ← getLsbD_crcBit_zero, h]
  have hshift : r <<< 1 = x <<< 1 := by
    unfold crcBit at h
    rw [hmsb] at h
    split at h
    · exact (BitVec.xor_left_inj _).1 h
    · exact h
  refine BitVec.eq_of_getLsbD_eq fun i hi => ?_
  by_cases hlast : i = 15
  · rw [hlast, hmsb]
  · have hbit := congrArg (fun y : BitVec 16 => y.getLsbD (i + 1)) hshift
    have hlt : i + 1 < 16 := by omega
    simpa [BitVec.getLsbD_shiftLeft, hlt, BitVec.getLsbD_eq_getElem hi] using hbit

theorem crcBits_injective {r x : BitVec 16}
    (h : crcBit (crcBit (crcBit (crcBit (crcBit (crcBit (crcBit (crcBit r))))))) =
      crcBit (crcBit (crcBit (crcBit (crcBit (crcBit (crcBit (crcBit x)))))))) : r = x :=
  crcBit_injective (crcBit_injective (crcBit_injective (crcBit_injective (crcBit_injective (crcBit_injective (crcBit_injective
    (crcBit_injective h)))))))

theorem crcByte_left {r x : BitVec 16} {b : Byte} (h : crcByte r b = crcByte x b) : r = x :=
  (BitVec.xor_left_inj _).1 (crcBits_injective h)

theorem crcByte_right {r : BitVec 16} {a b : Byte} (h : crcByte r a = crcByte r b) : a = b := by
  have hshift : a.zeroExtend 16 <<< 8 = b.zeroExtend 16 <<< 8 := (BitVec.xor_right_inj _).1 (crcBits_injective h)
  refine BitVec.eq_of_getLsbD_eq fun i hi => ?_
  have hbit := congrArg (fun y : BitVec 16 => y.getLsbD (i + 8)) hshift
  have hlt : i + 8 < 16 := by omega
  have hlt' : i < 16 := by omega
  simpa [BitVec.getLsbD_shiftLeft, BitVec.getLsbD_setWidth, hlt, hlt'] using hbit

theorem crcFold_injective : ∀ (l : List Byte) {r x : BitVec 16}, l.foldl crcByte r = l.foldl crcByte x → r = x
  | [], _, _, h => h
  | _ :: l, _, _, h => crcByte_left (crcFold_injective l h)

/-- The CRC-16 differs for every change of a single byte (R48). -/
theorem crcFold_set_ne : ∀ {l : List Byte} {i : Nat} {b : Byte} (r : BitVec 16), i < l.length → b ≠ l.getD i 0 →
    (l.set i b).foldl crcByte r ≠ l.foldl crcByte r
  | _ :: l, 0, _, _, _, hb => fun h => hb (crcByte_right (crcFold_injective l h))
  | a :: _, _ + 1, _, r, hi, hb => crcFold_set_ne (crcByte r a) (Nat.lt_of_succ_lt_succ hi) hb

theorem crc16_set_ne {l : List Byte} {i : Nat} {b : Byte} (hi : i < l.length) (hb : b ≠ l.getD i 0) :
    crc16 (l.set i b) ≠ crc16 l := crcFold_set_ne _ hi hb

/-! ### Reading a record -/

theorem readDescriptor_descriptorGranule {d : Descriptor} (hk : d.key < 65536) (hc : d.cls < 256) (hl : d.length < 256)
    (hv : d.version < 4294967296) : readDescriptor (descriptorGranule d) = d := by
  have hkey : ofBytes ((descriptorGranule d).take 2) = d.key := (ofBytes_toBytes d.key 2).trans (Nat.mod_eq_of_lt (by omega))
  have hversion : ofBytes (((descriptorGranule d).drop 4).take 4) = d.version :=
    (ofBytes_toBytes d.version 4).trans (Nat.mod_eq_of_lt (by omega))
  have hcls : ((descriptorGranule d).getD 2 0).toNat = d.cls := (BitVec.toNat_ofNat d.cls 8).trans (Nat.mod_eq_of_lt (by omega))
  have hlength : ((descriptorGranule d).getD 3 0).toNat = d.length :=
    (BitVec.toNat_ofNat d.length 8).trans (Nat.mod_eq_of_lt (by omega))
  unfold readDescriptor
  rw [hkey, hversion, hcls, hlength]

theorem not_allErased_descriptor {d : Descriptor} (hk : d.key < 65536) (hff : d.key ≠ 65535) :
    ¬ allErased (descriptorGranule d) = true := by
  intro h
  rw [allErased_granule rfl] at h
  have hkey : ofBytes ((descriptorGranule d).take 2) = d.key := (ofBytes_toBytes d.key 2).trans (Nat.mod_eq_of_lt (by omega))
  rw [h] at hkey
  exact hff (hkey.symm.trans (by decide))

/-- The walk finds a record at a descriptor that is within its bounds (R52). -/
theorem chainStep_descriptorGranule {d : Descriptor} {o : Nat} (hk : d.key < 65536) (h0 : d.key ≠ 0) (hff : d.key ≠ 65535)
    (hc : d.cls < 256) (hl : d.length ≤ 240) (hv : d.version < 4294967296) (ho : o + footprint d.length ≤ 4096) :
    chainStep o (descriptorGranule d) = .record (footprint d.length) := by
  have hbounds : ¬ (d.length > Config.maxLength ∨ d.key = 0 ∨ d.key = 0xFFFF) := by
    have : Config.maxLength = 240 := rfl
    omega
  have hfits : ¬ o + footprint d.length > Config.sectorSize := Nat.not_lt.2 ho
  unfold chainStep
  rw [if_neg (not_allErased_descriptor hk hff), readDescriptor_descriptorGranule hk hc (by omega) hv]
  dsimp only
  rw [if_neg hbounds, if_neg hfits]

/-! A record in its parts: descriptor granule, commit granule, retire granule, and payload granules. -/

section Parts
variable {D C R P : List Byte} (hD : D.length = 8) (hC : C.length = 8) (hR : R.length = 8)

include hD in
theorem parts_descriptor : (D ++ C ++ R ++ P).take 8 = D := by
  rw [List.append_assoc, List.append_assoc, List.take_left' hD]

include hD in
theorem parts_drop (k : Nat) : (D ++ C ++ R ++ P).drop (8 + k) = (C ++ R ++ P).drop k := by
  rw [List.append_assoc, List.append_assoc, ← List.drop_drop, List.drop_left' hD, ← List.append_assoc]

include hD hC in
theorem parts_crc : ((D ++ C ++ R ++ P).drop 8).take 2 = C.take 2 := by
  rw [show 8 = 8 + 0 from rfl, parts_drop hD, List.drop_zero, List.append_assoc, List.take_append_of_le_length (by omega)]

include hD hC in
theorem parts_pattern : ((D ++ C ++ R ++ P).drop 10).take 6 = C.drop 2 := by
  rw [show 10 = 8 + 2 from rfl, parts_drop hD, List.append_assoc, List.drop_append_of_le_length (by omega),
    List.take_left' (by rw [List.length_drop, hC])]

include hD hC hR in
theorem parts_retire : ((D ++ C ++ R ++ P).drop 16).take 8 = R := by
  rw [show 16 = 8 + 8 from rfl, parts_drop hD, List.append_assoc, List.drop_left' hC, List.take_left' hR]

include hD hC hR in
theorem parts_payload (k : Nat) : ((D ++ C ++ R ++ P).drop 24).take k = P.take k := by
  rw [show 24 = 8 + 16 from rfl, parts_drop hD, List.drop_left' (by rw [List.length_append, hC, hR])]

include hD hC in
theorem patternExact_parts : patternExact (D ++ C ++ R ++ P) = (C.drop 2 == commitPattern) := by
  unfold patternExact
  rw [parts_pattern hD hC]

include hD hC hR in
theorem crcMatches_parts (k : Nat) : crcMatches (D ++ C ++ R ++ P) k = (ofBytes (C.take 2) == (crc16 (D ++ P.take k)).toNat) := by
  unfold crcMatches
  rw [parts_crc hD hC, parts_descriptor hD, parts_payload hD hC hR]

include hD hC hR in
theorem verdict_parts : verdict (D ++ C ++ R ++ P) =
    if !allErased R then .retired
    else if malformed (readDescriptor D) then .uncommitted
    else if !patternExact (D ++ C ++ R ++ P) then .uncommitted
    else if !crcMatches (D ++ C ++ R ++ P) (readDescriptor D).length then .failingCrc
    else .live := by
  unfold verdict
  rw [parts_descriptor hD, parts_retire hD hC hR]

end Parts

theorem length_commitGranule (D payload : List Byte) : (commitGranule D payload).length = 8 := rfl

theorem commitGranule_drop (D payload : List Byte) : (commitGranule D payload).drop 2 = commitPattern := rfl

theorem commitGranule_take (D payload : List Byte) : ofBytes ((commitGranule D payload).take 2) = (crc16 (D ++ payload)).toNat :=
  (ofBytes_toBytes _ 2).trans (Nat.mod_eq_of_lt (crc16 (D ++ payload)).isLt)

theorem length_paddedPayload (payload : List Byte) : (paddedPayload payload).length = 8 * ((payload.length + 7) / 8) := by
  unfold paddedPayload
  rw [List.length_append, List.length_replicate]
  omega

theorem take_paddedPayload (payload : List Byte) : (paddedPayload payload).take payload.length = payload := List.take_left

theorem ofBytes_two_set {l : List Byte} {j : Nat} {b : Byte} (hl : l.length = 2) (hj : j < 2) (hb : b ≠ l.getD j 0) :
    ofBytes (l.set j b) ≠ ofBytes l := by
  obtain ⟨x, y, rfl⟩ := List.length_eq_two.1 hl
  have hx := x.isLt
  have hb' := b.isLt
  match j, hj with
  | 0, _ =>
    intro h
    refine hb (BitVec.eq_of_toNat_eq ?_)
    have h : b.toNat + 256 * (y.toNat + 256 * 0) = x.toNat + 256 * (y.toNat + 256 * 0) := h
    show b.toNat = x.toNat
    omega
  | 1, _ =>
    intro h
    refine hb (BitVec.eq_of_toNat_eq ?_)
    have h : x.toNat + 256 * (b.toNat + 256 * 0) = x.toNat + 256 * (y.toNat + 256 * 0) := h
    show b.toNat = y.toNat
    omega

section Wrong
variable {D C R P : List Byte} (hD : D.length = 8) (hC : C.length = 8) (hR : R.length = 8) {i : Nat} (b : Byte)

include hD in
theorem parts_set_descriptor (hi : i < 8) : (D ++ C ++ R ++ P).set i b = D.set i b ++ C ++ R ++ P ∧
    (D ++ C ++ R ++ P).getD i 0 = D.getD i 0 := by
  simp only [List.append_assoc]
  rw [List.set_append_left _ _ (by omega), List.getD_append _ _ _ _ (by omega)]
  exact ⟨rfl, rfl⟩

include hD hC in
theorem parts_set_commit (hi : 8 ≤ i) (hi' : i < 16) : (D ++ C ++ R ++ P).set i b = D ++ C.set (i - 8) b ++ R ++ P ∧
    (D ++ C ++ R ++ P).getD i 0 = C.getD (i - 8) 0 := by
  simp only [List.append_assoc]
  rw [List.set_append_right _ _ (by omega), List.getD_append_right _ _ _ _ (by omega), hD, List.set_append_left _ _ (by omega),
    List.getD_append _ _ _ _ (by omega)]
  exact ⟨rfl, rfl⟩

include hD hC hR in
theorem parts_set_payload (hi : 24 ≤ i) : (D ++ C ++ R ++ P).set i b = D ++ C ++ R ++ P.set (i - 24) b ∧
    (D ++ C ++ R ++ P).getD i 0 = P.getD (i - 24) 0 := by
  have hlen : (D ++ C ++ R).length = 24 := by
    rw [List.length_append, List.length_append, hD, hC, hR]
  rw [List.set_append_right _ _ (by omega), List.getD_append_right _ _ _ _ (by omega), hlen]
  exact ⟨rfl, rfl⟩

end Wrong

/-! The record of descriptor `d` and its payload, as composed, and with one byte changed. -/

/-- A descriptor that the 6440 writes: of a user record, or of a class descriptor (R46). -/
def Descriptor.Written (d : Descriptor) : Prop :=
  1 ≤ d.key ∧ d.key ≤ 0xFEFF ∧ d.cls ≤ 7 ∨ 0xFF00 ≤ d.key ∧ d.key ≤ 0xFF07 ∧ d.cls = 15

theorem Descriptor.Written.not_malformed {d : Descriptor} (h : d.Written) : malformed d = false := by
  unfold malformed userKey systemKey
  rw [Bool.not_eq_false']
  rcases h with ⟨h1, h2, h3⟩ | ⟨h1, h2, h3⟩
  · rw [decide_eq_true h1, decide_eq_true h2, decide_eq_true h3]
    rfl
  · rw [decide_eq_true h1, decide_eq_true h2, h3, Bool.or_eq_true]
    exact .inr rfl

/-- The record composed of its granules (R45). -/
def recordOf (d : Descriptor) (payload retire : List Byte) : List Byte :=
  descriptorGranule d ++ commitGranule (descriptorGranule d) payload ++ retire ++ paddedPayload payload

section Composed
variable {d : Descriptor} {payload retire : List Byte} (hd : d.Written) (hl : d.length ≤ 240) (hv : d.version < 4294967296)
  (hp : payload.length = d.length) (hr : retire.length = 8)

include hd hl hv in
theorem Descriptor.Written.read : readDescriptor (descriptorGranule d) = d :=
  readDescriptor_descriptorGranule (by unfold Descriptor.Written at hd; omega) (by unfold Descriptor.Written at hd; omega) (by omega) hv

include hp hr in
theorem length_recordOf : (recordOf d payload retire).length = footprint d.length := by
  unfold recordOf footprint
  rw [List.length_append, List.length_append, List.length_append, length_paddedPayload, length_commitGranule, hr, hp]
  rfl

include hp hr in
theorem crcMatches_recordOf : crcMatches (recordOf d payload retire) d.length = true := by
  unfold recordOf
  rw [crcMatches_parts rfl rfl hr, commitGranule_take, ← hp, take_paddedPayload]
  exact beq_self_eq_true _

theorem patternExact_recordOf : patternExact (recordOf d payload retire) = true :=
  (patternExact_parts rfl rfl).trans (beq_self_eq_true _)

include hd hl hv hr in
/-- The verdict on a record of this descriptor whose retire granule is as given (R53). -/
theorem verdict_of_descriptor {C P : List Byte} (hC : C.length = 8) : verdict (descriptorGranule d ++ C ++ retire ++ P) =
    if !allErased retire then .retired
    else if !patternExact (descriptorGranule d ++ C ++ retire ++ P) then .uncommitted
    else if !crcMatches (descriptorGranule d ++ C ++ retire ++ P) d.length then .failingCrc
    else .live := by
  rw [verdict_parts rfl hC hr, hd.read hl hv, hd.not_malformed, if_neg Bool.false_ne_true]

include hp hr in
theorem crcMatches_wrong_descriptor {i : Nat} {b : Byte} (hi : i < 8) (hb : b ≠ (recordOf d payload retire).getD i 0) :
    crcMatches ((recordOf d payload retire).set i b) d.length = false := by
  obtain ⟨hset, hget⟩ := parts_set_descriptor (D := descriptorGranule d) (C := commitGranule (descriptorGranule d) payload)
    (R := retire) (P := paddedPayload payload) rfl b hi
  have hlen : (descriptorGranule d).length = 8 := rfl
  unfold recordOf at hb ⊢
  rw [hget] at hb
  rw [hset, crcMatches_parts (by rw [List.length_set]; rfl) rfl hr, commitGranule_take, ← hp, take_paddedPayload,
    ← List.set_append_left _ _ (by omega), beq_eq_false_iff_ne]
  exact fun h => crc16_set_ne (by rw [List.length_append]; omega) (by rwa [List.getD_append _ _ _ _ (by omega)])
    (BitVec.eq_of_toNat_eq h).symm

include hp hr in
theorem crcMatches_wrong_crc {i : Nat} {b : Byte} (hi : 8 ≤ i) (hi' : i < 10) (hb : b ≠ (recordOf d payload retire).getD i 0) :
    crcMatches ((recordOf d payload retire).set i b) d.length = false ∧
      patternExact ((recordOf d payload retire).set i b) = true := by
  obtain ⟨hset, hget⟩ := parts_set_commit (D := descriptorGranule d) (C := commitGranule (descriptorGranule d) payload)
    (R := retire) (P := paddedPayload payload) rfl rfl b hi (by omega)
  unfold recordOf at hb ⊢
  rw [hget] at hb
  rw [hset, crcMatches_parts rfl (List.length_set ..) hr, patternExact_parts rfl (List.length_set ..), ← hp, take_paddedPayload,
    beq_eq_false_iff_ne, List.take_set, ← commitGranule_take]
  refine ⟨ofBytes_two_set rfl (by omega) ?_, ?_⟩
  · rwa [List.getD_eq_getElem?_getD, List.getElem?_take, if_pos (by omega), ← List.getD_eq_getElem?_getD]
  · rw [List.drop_set, if_pos (by omega)]
    exact beq_self_eq_true _

theorem patternExact_wrong_pattern {i : Nat} {b : Byte} (hi : 10 ≤ i) (hi' : i < 16) (hb : b ≠ (recordOf d payload retire).getD i 0) :
    patternExact ((recordOf d payload retire).set i b) = false := by
  obtain ⟨hset, hget⟩ := parts_set_commit (D := descriptorGranule d) (C := commitGranule (descriptorGranule d) payload)
    (R := retire) (P := paddedPayload payload) rfl rfl b (by omega) hi'
  unfold recordOf at hb ⊢
  rw [hget] at hb
  rw [hset, patternExact_parts rfl (List.length_set ..), beq_eq_false_iff_ne]
  intro h
  have hbyte := congrArg (fun l : List Byte => l.getD (i - 10) 0) (h.trans (commitGranule_drop (descriptorGranule d) payload).symm)
  rw [List.getD_eq_getElem?_getD, List.getElem?_drop, show 2 + (i - 10) = i - 8 by omega, List.getElem?_set_self (by
    rw [length_commitGranule]; omega), List.getD_eq_getElem?_getD, List.getElem?_drop, show 2 + (i - 10) = i - 8 by omega,
    ← List.getD_eq_getElem?_getD] at hbyte
  exact hb hbyte

include hp hr in
theorem crcMatches_wrong_payload {i : Nat} {b : Byte} (hi : 24 ≤ i) (hi' : i < 24 + d.length)
    (hb : b ≠ (recordOf d payload retire).getD i 0) : crcMatches ((recordOf d payload retire).set i b) d.length = false ∧
      patternExact ((recordOf d payload retire).set i b) = true := by
  obtain ⟨hset, hget⟩ := parts_set_payload (D := descriptorGranule d) (C := commitGranule (descriptorGranule d) payload)
    (R := retire) (P := paddedPayload payload) rfl rfl hr b hi
  have hlen : (descriptorGranule d).length = 8 := rfl
  unfold recordOf at hb ⊢
  rw [hget, paddedPayload, List.getD_append _ _ _ _ (by omega)] at hb
  rw [hset, crcMatches_parts rfl rfl hr, patternExact_parts rfl rfl, commitGranule_take, ← hp, List.take_set, take_paddedPayload,
    beq_eq_false_iff_ne]
  refine ⟨fun h => ?_, beq_self_eq_true _⟩
  have hcode : crc16 ((descriptorGranule d ++ payload).set (8 + (i - 24)) b) ≠ crc16 (descriptorGranule d ++ payload) :=
    crc16_set_ne (by rw [List.length_append]; omega) (by
      rwa [List.getD_append_right _ _ _ _ (by omega), hlen, Nat.add_sub_cancel_left])
  rw [List.set_append_right _ _ (by omega), hlen, Nat.add_sub_cancel_left] at hcode
  exact hcode (BitVec.eq_of_toNat_eq h).symm

include hd hl hv hr in
theorem verdict_recordOf : verdict (recordOf d payload retire) =
    if !allErased retire then .retired
    else if !patternExact (recordOf d payload retire) then .uncommitted
    else if !crcMatches (recordOf d payload retire) d.length then .failingCrc
    else .live := verdict_of_descriptor hd hl hv hr rfl

include hd hl hv hr in
/-- The verdict on a record in which a byte behind the descriptor is changed, and none of the retire granule. -/
theorem verdict_wrong {i : Nat} {b : Byte} (hi : 8 ≤ i ∧ i < 16 ∨ 24 ≤ i) (hff : allErased retire = true) :
    verdict ((recordOf d payload retire).set i b) =
      if !patternExact ((recordOf d payload retire).set i b) then .uncommitted
      else if !crcMatches ((recordOf d payload retire).set i b) d.length then .failingCrc
      else .live := by
  have hkeep : (!allErased retire) ≠ true := by
    rw [hff]
    exact Bool.false_ne_true
  rcases hi with ⟨hi, hi'⟩ | hi
  · have hset : (recordOf d payload retire).set i b = _ := (parts_set_commit rfl rfl b hi hi').1
    rw [hset, verdict_of_descriptor hd hl hv hr (List.length_set ..), if_neg hkeep]
  · have hset : (recordOf d payload retire).set i b = _ := (parts_set_payload rfl rfl hr b hi).1
    rw [hset, verdict_of_descriptor hd hl hv hr rfl, if_neg hkeep]

include hd hl hv hp hr in
/-- A record with a byte of the descriptor changed that leaves its length is never LIVE. -/
theorem verdict_wrong_descriptor {i : Nat} {b : Byte} (hi : i < 8) (h3 : i ≠ 3) (hb : b ≠ (recordOf d payload retire).getD i 0) :
    verdict ((recordOf d payload retire).set i b) ≠ .live := by
  have hset : (recordOf d payload retire).set i b = _ := (parts_set_descriptor rfl b hi).1
  have hcrc := crcMatches_wrong_descriptor hp hr hi hb
  have hlength : (readDescriptor ((descriptorGranule d).set i b)).length = d.length := by
    have hbyte : ((descriptorGranule d).set i b).getD 3 0 = (descriptorGranule d).getD 3 0 := by
      rw [List.getD_eq_getElem?_getD, List.getElem?_set_ne h3, ← List.getD_eq_getElem?_getD]
    exact (congrArg BitVec.toNat hbyte).trans (congrArg Descriptor.length (hd.read hl hv))
  rw [hset] at hcrc ⊢
  rw [verdict_parts (List.length_set ..) rfl hr, hlength, hcrc]
  split
  · exact fun h => nomatch h
  · split
    · exact fun h => nomatch h
    · split
      · exact fun h => nomatch h
      · exact fun h => nomatch h

end Composed

/-- Settles O52. -/
theorem recordReadsBack : Obligations.RecordReadsBack := by
  unfold Obligations.RecordReadsBack
  intro d payload retire p moving hd hl hv hp hr record
  have hd : d.Written := hd
  have hrecord : record = recordOf d payload retire := rfl
  have hdesc : (recordOf d payload retire).take 8 = descriptorGranule d := parts_descriptor rfl
  have hread := hd.read hl hv
  rw [hrecord, hdesc]
  refine ⟨length_recordOf hp hr, hread, fun o ho => ?_, ?_, ?_, fun i b hb => ?_⟩
  · unfold Descriptor.Written at hd
    exact chainStep_descriptorGranule (by omega) (by omega) (by omega) (by omega) hl hv ho
  · unfold recordPasses
    rw [patternExact_recordOf, crcMatches_recordOf hp hr, hdesc, hread]
    exact beq_self_eq_true d
  · rw [verdict_recordOf hd hl hv hr, patternExact_recordOf, crcMatches_recordOf hp hr]
    by_cases hff : retire = List.replicate 8 0xFF
    · rw [if_pos hff, (allErased_granule hr).2 hff]
      rfl
    · rw [if_neg hff, Bool.eq_false_iff.2 fun h => hff ((allErased_granule hr).1 h)]
      rfl
  · intro wrong payloadByte
    have hfails : ∀ e : Entry, e.length = d.length → (patternExact wrong = false ∨ crcMatches wrong d.length = false) →
        recordPasses wrong e = false := fun e he h => by
      unfold recordPasses
      rw [he]
      rcases h with h | h <;> rw [h]
      · rfl
      · rw [Bool.and_false, Bool.false_and]
    refine ⟨fun hi => hfails _ rfl ?_, fun hff => ⟨fun hi h3 => verdict_wrong_descriptor hd hl hv hp hr hi h3 hb, fun hi hi' => ?_,
      fun hi hi' => ?_, fun ⟨hi, hi'⟩ => ?_⟩⟩
    · rcases hi with hi | ⟨hi, hi'⟩
      · rcases Nat.lt_or_ge i 8 with h8 | h8
        · exact .inr (crcMatches_wrong_descriptor hp hr h8 hb)
        · rcases Nat.lt_or_ge i 10 with h10 | h10
          · exact .inr (crcMatches_wrong_crc hp hr h8 h10 hb).1
          · exact .inl (patternExact_wrong_pattern h10 hi hb)
      · exact .inr (crcMatches_wrong_payload hp hr hi hi' hb).1
    · obtain ⟨hcrc, hpattern⟩ := crcMatches_wrong_crc hp hr hi hi' hb
      show verdict ((recordOf d payload retire).set i b) = _
      rw [verdict_wrong hd hl hv hr (.inl ⟨hi, by omega⟩) ((allErased_granule hr).2 hff), hcrc, hpattern]
      rfl
    · show verdict ((recordOf d payload retire).set i b) = _
      rw [verdict_wrong hd hl hv hr (.inl ⟨by omega, hi'⟩) ((allErased_granule hr).2 hff), patternExact_wrong_pattern hi hi' hb]
      rfl
    · obtain ⟨hcrc, hpattern⟩ := crcMatches_wrong_payload hp hr hi hi' hb
      show verdict ((recordOf d payload retire).set i b) = _
      rw [verdict_wrong hd hl hv hr (.inr hi) ((allErased_granule hr).2 hff), hcrc, hpattern]
      rfl

end Sys2Proof.Machine

/-! PROOFS. The steps of an evacuation (section 9.4). -/

namespace Sys2Proof.Machine

set_option Elab.async false

/-! ### A claim of the reclaim engine on an idle plane -/

theorem State.plane_congr {s t : State} (h0 : t.pl0 = s.pl0) (h1 : t.pl1 = s.pl1) (q : PlaneId) : t.plane q = s.plane q := by
  cases q
  · exact h0
  · exact h1

theorem State.idle_congr {s t : State} {q : PlaneId} (h : (s.plane q).Idle) (h0 : t.pl0 = s.pl0) (h1 : t.pl1 = s.pl1) :
    (t.plane q).Idle := by
  rw [State.plane_congr h0 h1]
  exact h

/-- The reclaim engine turned to other work, with the index as given, claims a run on an idle plane. -/
theorem State.claim_reclaim {s : State} {x : Reclaim} {i : KeyIndex} {c : Claim} (hw : c.work.isErase = false)
    (hidle : (s.plane (planeOf c.sector)).Idle) : ({ s with rcl := x, idx := i } : State).claim c =
      ({ s.setPlane (planeOf c.sector) ((s.plane (planeOf c.sector)).withRun c.who c.sector c.first c.work) with
        rcl := x, idx := i } : State) := by
  have hplane : ∀ q, ({ s with rcl := x, idx := i } : State).plane q = s.plane q := fun q => by cases q <;> rfl
  rw [State.claim_idle (by rw [hplane]; exact hidle) hw, hplane]
  cases planeOf c.sector <;> rfl

/-! ### The walk -/

theorem State.cycleAnswer_readDesc {s : State} (n : SectorNo) (ha : s.rcl.act = .readDesc) (g : List Byte) :
    s.cycleAnswer n (.bytes g) = s.descriptorRead n g := by
  unfold State.cycleAnswer
  rw [ha]

/-- The walk goes on with the reading of the next descriptor granule (R162). -/
theorem State.nextRecord_eq {s : State} {n : SectorNo} (hpos : s.rcl.pos ≤ 4072) (hstop : s.rcl.stop = .none)
    (hidle : (s.plane (planeOf n)).Idle) : s.nextRecord n =
      ({ s.setPlane (planeOf n) ((s.plane (planeOf n)).withRun .reclaim n (s.rcl.pos / 8) (.read 1)) with
        rcl := { s.rcl with act := .readDesc } } : State) := by
  have hend : ¬ chainPastEnd s.rcl.pos = true := by
    unfold chainPastEnd
    rw [decide_eq_true_iff]
    omega
  unfold State.nextRecord
  rw [if_neg hend, if_pos hstop]
  refine (State.claim_reclaim (s := s) (i := s.idx) (c := ⟨.reclaim, n, s.rcl.pos / 8, .read 1⟩) rfl hidle).trans ?_
  cases planeOf n <;> rfl

/-- The walk goes on behind a record (R162). -/
theorem State.advance_eq {s : State} {n : SectorNo} {fp : Nat} (hpos : s.rcl.pos + fp ≤ 4072) (hstop : s.rcl.stop = .none)
    (hidle : (s.plane (planeOf n)).Idle) : s.advance n fp =
      ({ s.setPlane (planeOf n) ((s.plane (planeOf n)).withRun .reclaim n ((s.rcl.pos + fp) / 8) (.read 1)) with
        rcl := { s.rcl with act := .readDesc, pos := s.rcl.pos + fp, step := none, buffer := [] } } : State) := by
  unfold State.advance
  rw [State.nextRecord_eq (by exact hpos) (by exact hstop) (by exact State.idle_congr hidle rfl rfl)]
  cases planeOf n <;> rfl

section Walk
variable {s : State} {n : SectorNo} {d : Descriptor} (hread : readDescriptor (descriptorGranule d) = d)

include hread in
theorem State.markStep_held (hh : s.idx.hold = some d.key) : s.markStep n (descriptorGranule d) =
    { s with rcl := { s.rcl with act := .heldWait, buffer := descriptorGranule d } } := by
  unfold State.markStep
  rw [hread]
  dsimp only
  rw [KeyIndex.markMoving_held hh]

include hread in
theorem State.markStep_notCurrent (hh : s.idx.hold ≠ some d.key)
    (hno : ∀ e, s.idx.lookup d.key = some e → e.place ≠ { sector := n, offset := s.rcl.pos }) :
    s.markStep n (descriptorGranule d) = s.advance n (footprint d.length) := by
  unfold State.markStep
  rw [hread]
  dsimp only
  rw [KeyIndex.markMoving_notCurrent hh hno]

include hread in
theorem State.markStep_marked {e : Entry} (hh : s.idx.hold ≠ some d.key) (hl : s.idx.lookup d.key = some e)
    (hp : e.place = { sector := n, offset := s.rcl.pos }) (hidle : (s.plane (planeOf n)).Idle) :
    s.markStep n (descriptorGranule d) =
      ({ s.setPlane (planeOf n) ((s.plane (planeOf n)).withRun .reclaim n (s.rcl.pos / 8) (.read (footprint d.length / 8))) with
        rcl := { s.rcl with
          act := .readRecord, buffer := []
          step := some { key := d.key, original := { sector := n, offset := s.rcl.pos }, copy := none, footprint := footprint d.length,
                         entry := e } }
        idx := { s.idx with entries := entryUpdate d.key (fun f => { f with moving := true }) s.idx.entries } } : State) := by
  unfold State.markStep
  rw [hread]
  dsimp only
  rw [← hp, KeyIndex.markMoving_marked hh hl, hp]
  exact State.claim_reclaim (c := ⟨.reclaim, n, s.rcl.pos / 8, .read (footprint d.length / 8)⟩) rfl hidle

end Walk

/-! ### The relocation step -/

theorem State.reclaimAnswer_step {s : State} {n : SectorNo} {k : CycleKind} {st : ReclaimStep} (hc : s.rcl.cycle = some (n, k))
    (hs : s.rcl.step = some st) (a : Answer) : s.reclaimAnswer a = s.stepAnswer n st a := by
  unfold State.reclaimAnswer
  rw [hc, hs]

theorem State.stepAnswer_copyCommitted {s : State} {n : SectorNo} {st : ReclaimStep} {c : Place} (ha : s.rcl.act = .copyCommit)
    (hc : st.copy = some c) (k : Nat) : s.stepAnswer n st (.done k) = s.copyCommitted n st c := by
  unfold State.stepAnswer
  rw [ha, hc]

theorem State.stepAnswer_originalRetired {s : State} {n : SectorNo} {st : ReclaimStep} {c : Place} (ha : s.rcl.act = .retireOriginal)
    (hc : st.copy = some c) (k : Nat) : s.stepAnswer n st (.done k) = s.originalRetired n st c := by
  unfold State.stepAnswer
  rw [ha, hc]

/-- The copy counts live and the retire of the original goes to an idle plane (R163, R164). -/
theorem State.copyCommitted_eq {s : State} {n : SectorNo} {st : ReclaimStep} {c : Place}
    (hkept : (s.rcl.buffer.drop 16).take 8 = List.replicate 8 0xFF) (hidle : (s.plane (planeOf n)).Idle) : s.copyCommitted n st c =
      ({ (s.putSector c.sector ((s.sector c.sector).makeLive st.footprint)).setPlane (planeOf n)
          ((s.plane (planeOf n)).withRun .reclaim n (st.original.offset / 8 + 2) (.program markGranule .notErased)) with
        rcl := { s.rcl with act := .retireOriginal } } : State) := by
  have herased : allErased ((s.rcl.buffer.drop 16).take 8) = true := by
    rw [hkept]
    rfl
  have hplane : (s.putSector c.sector ((s.sector c.sector).makeLive st.footprint)).plane (planeOf n) = s.plane (planeOf n) :=
    State.plane_congr rfl rfl _
  unfold State.copyCommitted
  dsimp only
  rw [State.recordLive_eq, if_pos (by exact herased)]
  refine (State.claim_reclaim (i := s.idx) (c := ⟨.reclaim, n, st.original.offset / 8 + 2, .program markGranule .notErased⟩) rfl
    (by rw [hplane]; exact hidle)).trans ?_
  dsimp only
  rw [hplane]
  cases planeOf n <;> rfl

/-- The end of the step's original: stale, its entry at the copy with the mark cleared, and the walk goes on (R164). -/
theorem State.originalRetired_eq {s : State} {n : SectorNo} {st : ReclaimStep} {c : Place} {e : Entry}
    (hl : s.idx.lookup st.key = some e) (hp : e.place = st.original) (hvictim : (s.sector n).state = .victim)
    (hwaiter : s.idx.waiter = none) (hpos : s.rcl.pos + st.footprint ≤ 4072) (hstop : s.rcl.stop = .none)
    (hidle : (s.plane (planeOf n)).Idle) : s.originalRetired n st c =
      ({ (s.putSector n ((s.sector n).makeStale st.footprint)).setPlane (planeOf n)
          ((s.plane (planeOf n)).withRun .reclaim n ((s.rcl.pos + st.footprint) / 8) (.read 1)) with
        rcl := { s.rcl with act := .readDesc, pos := s.rcl.pos + st.footprint, step := none, buffer := [] }
        idx := { s.idx with entries := (entryUpdate st.key (fun f => { f with moving := false })
          (entryUpdate st.key (fun f => { f with place := c }) s.idx.entries)) } } : State) := by
  have hretired : s.recordRetired n st.footprint = s.putSector n ((s.sector n).makeStale st.footprint) := by
    refine State.setSector_same rfl ?_
    unfold clearsLatch SectorEntry.makeStale
    rw [hvictim]
    rfl
  have hrelocate := KeyIndex.relocate_of_lookup hl c
  rw [hp] at hrelocate
  unfold State.originalRetired
  dsimp only
  rw [hretired, show (s.putSector n ((s.sector n).makeStale st.footprint)).idx = s.idx from rfl, hrelocate]
  unfold State.stepDone State.clearMove
  dsimp only
  rw [if_neg (by
    show ¬ s.idx.waiter = some st.key
    rw [hwaiter]
    exact fun h => nomatch h)]
  rw [State.advance_eq (by exact hpos) (by exact hstop) (by exact State.idle_congr hidle rfl rfl)]
  cases planeOf n <;> rfl

/-- Settles O51: the descriptor granule read, the copy committed, and the original retired. -/
theorem relocationSteps : Obligations.RelocationSteps := by
  unfold Obligations.RelocationSteps
  intro s n k p u ha hphase hcycle hstop hwaiter hu hwho hus hi ended pos
  have hsettle : ∀ x : State, x.agenda = [] → x.rcl.phase ≠ .idle → (x.drain 255).startTest = x := fun x hx hp => by
    rw [State.drain_nil hx, State.startTest_busy hp]
  have hbusy : s.rcl.phase ≠ .idle := by
    rw [hphase]
    exact fun h => nomatch h
  have hagenda : ended.agenda = [] := (s.setPlane_agenda p _).trans ha
  have hrcl : ended.rcl = s.rcl := s.setPlane_rcl p _
  have hidx : ended.idx = s.idx := s.setPlane_idx p _
  have hplane : (ended.plane p).Idle := by
    rw [State.plane_setPlane_same]
    exact hi
  refine ⟨fun d i hact hstep hpn hsec hfirst hwork h512 hmul hflash hk h1 hff hc hl hv => ?_, ?_, ?_⟩
  · subst hpn
    intro fp hfits
    have hread := readDescriptor_descriptorGranule hk hc (by omega) hv
    have hchain : chainStep ended.rcl.pos (descriptorGranule d) = .record (footprint d.length) := by
      rw [hrcl]
      exact chainStep_descriptorGranule hk (by omega) hff hc hl hv hfits
    have hexec : exec (.readRunDone (planeOf n) i) s = .next (((ended.markStep n (descriptorGranule d)).drain 255).startTest) := by
      have hbytes := exec_readRunDone_bytes (count := 1) ha hu hwork (by omega) hus hi i
      have hafter : s.afterRun (planeOf n) s.flash = ended := by
        show State.afterRun _ _ _ = State.setPlane _ _ _
        cases planeOf n <;> rfl
      rw [hafter, hwho, hsec, hfirst, ← hmul, hflash, show ∀ (y : State) a, y.deliver (.answer .reclaim a) = y.reclaimAnswer a from
        fun _ _ => rfl, State.reclaimAnswer_cycle (by rw [hrcl]; exact hcycle) (by rw [hrcl]; exact hstep),
        State.cycleAnswer_readDesc n (by rw [hrcl]; exact hact)] at hbytes
      unfold State.descriptorRead at hbytes
      rwa [hchain] at hbytes
    refine ⟨fun hh => ?_, fun e hh hlook hplace => ?_, fun hh hno hend => ?_⟩
    · rw [State.markStep_held hread (by rw [hidx]; exact hh), hsettle _ (by exact hagenda) (by rw [hrcl]; exact hbusy), hrcl] at hexec
      exact hexec
    · rw [State.markStep_marked hread (by rw [hidx]; exact hh) (by rw [hidx]; exact hlook) (by rw [hrcl]; exact hplace) hplane,
        hsettle _ (by exact (State.setPlane_agenda _ _ _).trans hagenda) (by rw [hrcl]; exact hbusy), hrcl, hidx] at hexec
      refine ⟨_, hexec, fun key => ?_, rfl⟩
      rw [lookup_entryUpdate (x := s.idx) (f := fun f => { f with moving := true }) (fun _ => rfl) rfl, hlook]
      rfl
    · rw [State.markStep_notCurrent hread (by rw [hidx]; exact hh) (by rw [hidx, hrcl]; exact hno)] at hexec
      rw [State.advance_eq (by rw [hrcl]; exact hend) (by rw [hrcl]; exact hstop) hplane,
        hsettle _ (by exact (State.setPlane_agenda _ _ _).trans hagenda) (by rw [hrcl]; exact hbusy), hrcl] at hexec
      have hnone : ({ s.rcl with act := .readDesc, pos := pos + fp, step := none, buffer := [] } : Reclaim) =
          { s.rcl with act := .readDesc, pos := pos + fp, buffer := [] } := by
        dsimp only
        rw [hstep]
      rw [← hnone]
      exact hexec
  · intro st m o data hstep hcopy hact hc hdone hlen h512 herased hkept hidle e fp
    have hrun : u = commitRunOf .reclaim m (o / 8 + 1) data := by
      cases u
      cases hc
      cases hdone
      cases hus
      rfl
    obtain ⟨f, hf, hexec⟩ := exec_commitRun ha (hu.trans (congrArg some hrun)) hlen h512 herased
      (Plane.finishRun_idle hi)
    have hrcl' := s.afterRun_rcl p f
    have hplane' : (s.afterRun p f).plane (planeOf n) = ended.plane (planeOf n) := State.plane_afterRun ..
    rw [show ∀ (y : State) a, y.deliver (.answer .reclaim a) = y.reclaimAnswer a from fun _ _ => rfl,
      State.reclaimAnswer_step (by rw [hrcl']; exact hcycle) (by rw [hrcl']; exact hstep),
      State.stepAnswer_copyCommitted (by rw [hrcl']; exact hact) hcopy,
      State.copyCommitted_eq (by rw [hrcl']; exact hkept) (by rw [hplane']; exact hidle),
      hsettle _ (by exact (State.setPlane_agenda _ _ _).trans ((s.afterRun_agenda p f).trans ha)) (by rw [hrcl']; exact hbusy), hplane',
      hrcl'] at hexec
    have hflash : ∀ x : SectorEntry, ∀ q y, (((s.afterRun p f).putSector m x).setPlane q y).flash = f := fun x q y =>
      (State.setPlane_flash _ _ _).trans (s.afterRun_flash p f)
    refine ⟨_, hexec, fun x y hy => ?_, ?_⟩
    · dsimp only
      rw [hflash]
      exact hf x y hy
    · rw [State.afterRun_sector]
      generalize ended.plane (planeOf n) = q
      cases p <;> cases planeOf n <;> rfl
  · intro st c e hstep hcopy hact hpn hc hdone h512 hl hplace hvictim hend x fp
    subst hpn
    have hrun : u = retireRunOf .reclaim n (st.original.offset / 8 + 2) := by
      cases u
      cases hc
      cases hdone
      cases hus
      rfl
    obtain ⟨f, -, hexec⟩ := exec_retireRun ha (hu.trans (congrArg some hrun)) h512 hi
    have hrcl' := s.afterRun_rcl (planeOf n) f
    have hidx' := s.afterRun_idx (planeOf n) f
    have hplane' : (s.afterRun (planeOf n) f).plane (planeOf n) = ended.plane (planeOf n) := State.plane_afterRun ..
    rw [show ∀ (y : State) a, y.deliver (.answer .reclaim a) = y.reclaimAnswer a from fun _ _ => rfl,
      State.reclaimAnswer_step (by rw [hrcl']; exact hcycle) (by rw [hrcl']; exact hstep),
      State.stepAnswer_originalRetired (by rw [hrcl']; exact hact) hcopy,
      State.originalRetired_eq (by rw [hidx']; exact hl) hplace (by rw [State.afterRun_sector]; exact hvictim)
        (by rw [hidx']; exact hwaiter) (by rw [hrcl']; exact hend) (by rw [hrcl']; exact hstop) (by rw [hplane']; exact hplane),
      hsettle _ (by exact (State.setPlane_agenda _ _ _).trans ((s.afterRun_agenda _ f).trans ha)) (by rw [hrcl']; exact hbusy), hplane',
      hrcl', hidx'] at hexec
    refine ⟨_, hexec, fun key => ?_, ?_⟩
    · have hclear := lookup_entryUpdate (x := { s.idx with entries := entryUpdate st.key (fun f => { f with place := c }) s.idx.entries })
        (y := { s.idx with entries := (entryUpdate st.key (fun f => { f with moving := false })
          (entryUpdate st.key (fun f => { f with place := c }) s.idx.entries)) })
        (key := st.key) (f := fun f => { f with moving := false }) (fun _ => rfl) rfl key
      have hmove := fun key' => lookup_entryUpdate (x := s.idx)
        (y := { s.idx with entries := entryUpdate st.key (fun f => { f with place := c }) s.idx.entries })
        (key := st.key) (f := fun f => { f with place := c }) (fun _ => rfl) rfl key'
      refine hclear.trans ?_
      rw [hmove, hmove, if_pos rfl, hl]
      split <;> rfl
    · rw [State.afterRun_sector]
      generalize ended.plane (planeOf n) = q
      have hended : ended = s.setPlane (planeOf n) { s.plane (planeOf n) with run := none } := rfl
      rw [hended]
      cases planeOf n <;> rfl

end Sys2Proof.Machine

/-! PROOFS. Chip reset (sections 2.8, 11.4 and 12.6). -/

namespace Sys2Proof.Machine

set_option Elab.async false

/-! ### What a chip reset leaves of the work in hand -/

theorem flashRead_congr {m f : List Host.Cell} {n : SectorNo} {o len : Nat} (hlen : o + len ≤ 4096)
    (h : ∀ a, a < 4096 → flashByte m n a = flashByte f n a) : flashRead m n o len = flashRead f n o len := by
  refine eq_of_getD (by rw [length_flashRead, length_flashRead]) fun i hi => ?_
  rw [length_flashRead] at hi
  rw [getD_flashRead _ _ _ hi, getD_flashRead _ _ _ hi, h _ (by omega)]

theorem cutLeaves_cases (role : GranuleRole) (old given c : List Byte) :
    cutLeaves role old given c = old ∨ cutLeaves role old given c = c := by
  unfold cutLeaves
  split
  · exact .inr rfl
  · exact .inl rfl

/-- Flash after the program in progress of the run was cut off. -/
theorem cutProgram_eq {m : List Host.Cell} {p : Plane} {u : Run} {data kept : List Byte} {mode : Verify} (hu : p.run = some u)
    (hw : u.claim.work = .program data mode) (h5 : u.claim.first + u.done < 512) : ∃ x : List Byte, x.length ≤ 8 ∧
      cutProgram m p kept = flashWrite m u.claim.sector (8 * (u.claim.first + u.done)) x ∧
      x = cutLeaves (runRole m u data) (flashRead m u.claim.sector (8 * (u.claim.first + u.done)) 8) (granuleData data u.done)
        (cutOff (flashRead m u.claim.sector (8 * (u.claim.first + u.done)) 8) (granuleData data u.done) kept) := by
  have hold : (flashRead m u.claim.sector (8 * (u.claim.first + u.done)) 8).length = 8 := length_flashRead ..
  refine ⟨_, length_cutLeaves hold (length_cutOff hold), ?_, rfl⟩
  unfold cutProgram
  rw [hu]
  dsimp only
  rw [hw]
  exact if_pos h5

/-- Flash outside the granule whose program was in progress. -/
theorem flashByte_cutProgram_out {m : List Host.Cell} {p : Plane} {kept : List Byte} {n : SectorNo} {o : Nat} (ho : o < 4096)
    (h : ∀ u data mode, p.run = some u → u.claim.work = .program data mode → u.claim.sector = n →
      ¬(8 * (u.claim.first + u.done) ≤ o ∧ o < 8 * (u.claim.first + u.done) + 8)) :
    flashByte (cutProgram m p kept) n o = flashByte m n o := by
  cases hu : p.run with
  | none =>
    unfold cutProgram
    rw [hu]
  | some u =>
    cases hw : u.claim.work with
    | program data mode =>
      by_cases h5 : u.claim.first + u.done < 512
      · obtain ⟨x, hx, hcut, -⟩ := cutProgram_eq (m := m) (kept := kept) hu hw h5
        rw [hcut, flashByte_flashWrite (by omega) n ho, if_neg]
        rintro ⟨rfl, hlo, hhi⟩
        exact h u data mode hu hw rfl ⟨hlo, by omega⟩
      · unfold cutProgram
        rw [hu]
        dsimp only
        rw [hw]
        exact congrArg (fun f => flashByte f n o) (if_neg h5)
    | read k =>
      unfold cutProgram
      rw [hu]
      dsimp only
      rw [hw]
    | erase =>
      unfold cutProgram
      rw [hu]
      dsimp only
      rw [hw]

theorem flashByte_abandonErase_out {m left : List Host.Cell} {p : Plane} {n : SectorNo} {o : Nat} (ho : o < 4096)
    (h : ∀ e, p.erase = some e → e.sector ≠ n) : flashByte (abandonErase m p left) n o = flashByte m n o := by
  unfold abandonErase
  split
  · next e he =>
    unfold cutErase
    dsimp only
    split
    · exact flashByte_flashLoad_ne m left (h e he).symm ho
    · rfl
  · rfl

theorem flashByte_cutPlane_out {m : List Host.Cell} {p : Plane} {t : Torn} {n : SectorNo} {o : Nat} (ho : o < 4096)
    (he : ∀ e, p.erase = some e → e.sector ≠ n)
    (hr : ∀ u data mode, p.run = some u → u.claim.work = .program data mode → u.claim.sector = n →
      ¬(8 * (u.claim.first + u.done) ≤ o ∧ o < 8 * (u.claim.first + u.done) + 8)) :
    flashByte (cutPlane m p t) n o = flashByte m n o := by
  unfold cutPlane
  rw [flashByte_abandonErase_out ho he, flashByte_cutProgram_out ho hr]

/-- A program cut off leaves each bit as it was or as the completed program makes it (R20). -/
theorem getLsbD_cutProgram {m : List Host.Cell} {p : Plane} {u : Run} {data kept : List Byte} {mode : Verify} (hu : p.run = some u)
    (hw : u.claim.work = .program data mode) (h5 : u.claim.first + u.done < 512) {i : Nat} (hi : i < 8) (k : Nat) :
    (flashByte (cutProgram m p kept) u.claim.sector (8 * (u.claim.first + u.done) + i)).getLsbD k =
        (flashByte m u.claim.sector (8 * (u.claim.first + u.done) + i)).getLsbD k ∨
      (flashByte (cutProgram m p kept) u.claim.sector (8 * (u.claim.first + u.done) + i)).getLsbD k =
        ((flashByte m u.claim.sector (8 * (u.claim.first + u.done) + i)).getLsbD k && (data.getD (8 * u.done + i) 0).getLsbD k) := by
  obtain ⟨x, hx, hcut, hleft⟩ := cutProgram_eq (m := m) (kept := kept) hu hw h5
  rw [hcut, flashByte_flashWrite (by omega) _ (by omega)]
  split
  · next hin =>
    rw [Nat.add_sub_cancel_left]
    obtain ⟨-, -, hlen⟩ := hin
    rcases cutLeaves_cases (runRole m u data) (flashRead m u.claim.sector (8 * (u.claim.first + u.done)) 8) (granuleData data u.done)
      (cutOff (flashRead m u.claim.sector (8 * (u.claim.first + u.done)) 8) (granuleData data u.done) kept) with h | h <;> rw [h] at hleft
    · rw [hleft, getD_flashRead _ _ _ hi]
      exact .inl rfl
    · rw [hleft] at hlen
      have hshort : (cutOff (flashRead m u.claim.sector (8 * (u.claim.first + u.done)) 8) (granuleData data u.done) kept).length =
          min 8 (min (granuleData data u.done).length kept.length) := by
        unfold cutOff
        rw [List.length_zipWith, List.length_zipWith, length_flashRead]
      rw [hleft, ← getD_flashRead _ _ _ hi, ← getD_granuleData data u.done hi]
      exact getLsbD_cutOff (by omega) (by omega) k
  · exact .inl rfl

/-- Of an erased identity granule a cut-off leaves no valid identity other than the one given (R41). -/
theorem cutLeaves_identity {given c : List Byte} {x y : Nat}
    (h : readIdentity (cutLeaves .identity (List.replicate 8 0xFF) given c) = .valid x y) :
    cutLeaves .identity (List.replicate 8 0xFF) given c = given := by
  unfold cutLeaves at h ⊢
  split at h
  · next hc =>
    rw [if_pos hc]
    have hc : (!(readIdentity c).isValid || c == given) = true := hc
    rw [h] at hc
    exact eq_of_beq hc
  · exact nomatch h

/-- The flash that a chip reset leaves of a sector in which only one of the planes has work in hand. -/
theorem State.cutFlash_sector {s : State} {a b : Torn} {p : PlaneId} {n : SectorNo}
    (he : ∀ q, q ≠ p → ∀ f, (s.plane q).erase = some f → f.sector ≠ n)
    (hr : ∀ q, q ≠ p → ∀ v, (s.plane q).run = some v → v.claim.sector ≠ n) : ∃ m t, (t = a ∨ t = b) ∧
      (∀ o, o < 4096 → flashByte m n o = flashByte s.flash n o) ∧
      ∀ o, o < 4096 → flashByte (s.cutFlash a b) n o = flashByte (cutPlane m (s.plane p) t) n o := by
  have hother : ∀ q, q ≠ p → ∀ (m : List Host.Cell) (t : Torn) (o : Nat), o < 4096 →
      flashByte (cutPlane m (s.plane q) t) n o = flashByte m n o := fun q hq m t o ho =>
    flashByte_cutPlane_out ho (he q hq) fun v _ _ hv _ hn => absurd hn (hr q hq v hv)
  cases p with
  | p0 => exact ⟨s.flash, a, .inl rfl, fun _ _ => rfl, hother .p1 (by decide) _ b⟩
  | p1 => exact ⟨cutPlane s.flash s.pl0 a, b, .inr rfl, hother .p0 (by decide) _ a, fun _ _ => rfl⟩

section CutProgram
variable {s : State} {a b : Torn} {p : PlaneId} {u : Run} {data : List Byte} {mode : Verify} (hu : (s.plane p).run = some u)
  (hw : u.claim.work = .program data mode) (h5 : u.claim.first + u.done < 512)
  (he : ∀ q f, (s.plane q).erase = some f → f.sector ≠ u.claim.sector)
  (hr : ∀ q v, q ≠ p → (s.plane q).run = some v → v.claim.sector ≠ u.claim.sector)

include he hr in
/-- The flash that a chip reset leaves of a sector in which a program alone is in hand. -/
theorem State.cutFlash_program : ∃ m t, (t = a ∨ t = b) ∧
    (∀ o, o < 4096 → flashByte m u.claim.sector o = flashByte s.flash u.claim.sector o) ∧
    ∀ o, o < 4096 → flashByte (s.cutFlash a b) u.claim.sector o =
      flashByte (cutProgram m (s.plane p) t.granule) u.claim.sector o := by
  obtain ⟨m, t, ht, hm, hcut⟩ := State.cutFlash_sector (s := s) (a := a) (b := b) (p := p) (n := u.claim.sector)
    (fun q _ => he q) (fun q hq v => hr q v hq)
  refine ⟨m, t, ht, hm, fun o ho => ?_⟩
  rw [hcut o ho, cutPlane, flashByte_abandonErase_out ho (he p)]

include hu hw h5 he hr in
theorem State.cutFlash_bits {i : Nat} (hi : i < 8) (k : Nat) :
    let before := (flashByte s.flash u.claim.sector (8 * (u.claim.first + u.done) + i)).getLsbD k
    let after := (flashByte (s.cutFlash a b) u.claim.sector (8 * (u.claim.first + u.done) + i)).getLsbD k
    after = before ∨ after = (before && (data.getD (8 * u.done + i) 0).getLsbD k) := by
  obtain ⟨m, t, -, hm, hcut⟩ := State.cutFlash_program (s := s) (a := a) (b := b) he hr
  dsimp only
  rw [hcut _ (by omega), ← hm _ (by omega)]
  exact getLsbD_cutProgram hu hw h5 hi k

include hu hw h5 he hr in
theorem State.cutFlash_identity (h0 : u.claim.first + u.done = 0) (hdata : 8 * (u.done + 1) ≤ data.length)
    (ha : a.granule.length = 8) (hb : b.granule.length = 8) (hold : flashRead s.flash u.claim.sector 0 8 = List.replicate 8 0xFF)
    {x y : Nat} (hv : readIdentity (flashRead (s.cutFlash a b) u.claim.sector 0 8) = .valid x y) :
    flashRead (s.cutFlash a b) u.claim.sector 0 8 = granuleData data u.done := by
  obtain ⟨m, t, ht, hm, hcut⟩ := State.cutFlash_program (s := s) (a := a) (b := b) he hr
  have hgranule : t.granule.length = 8 := by
    rcases ht with rfl | rfl
    · exact ha
    · exact hb
  obtain ⟨c, -, hwrite, hleft⟩ := cutProgram_eq (m := m) (kept := t.granule) hu hw h5
  rw [h0] at hwrite hleft
  have hold' : flashRead m u.claim.sector 0 8 = List.replicate 8 0xFF := (flashRead_congr (by omega) hm).trans hold
  have hrole : runRole m u data = .identity := if_pos h0
  have hleft : c = cutLeaves .identity (List.replicate 8 0xFF) (granuleData data u.done)
      (cutOff (List.replicate 8 0xFF) (granuleData data u.done) t.granule) := by
    rw [hleft, hrole, hold']
  have hlen : c.length = 8 := by
    rcases cutLeaves_cases .identity (List.replicate 8 0xFF) (granuleData data u.done)
      (cutOff (List.replicate 8 0xFF) (granuleData data u.done) t.granule) with h | h <;> rw [hleft, h]
    · rfl
    · exact length_cutOff_eq rfl (length_granuleData hdata) hgranule
  have hread : flashRead (s.cutFlash a b) u.claim.sector 0 8 = c := by
    rw [flashRead_congr (by omega) hcut, hwrite]
    have h := flashRead_flashWrite m u.claim.sector (8 * 0) c
    rwa [hlen] at h
  rw [hread, hleft] at hv ⊢
  exact cutLeaves_identity hv

end CutProgram

/-- The first granule of a header is its identity granule. -/
theorem flashRead_take (m : List Host.Cell) (n : SectorNo) : (flashRead m n 0 32).take 8 = flashRead m n 0 8 := rfl

/-- A sector whose erase a chip reset cut off (R37, R196). -/
theorem State.cutFlash_erase {s : State} {a b : Torn} {p : PlaneId} {e : EraseOp} (he : (s.plane p).erase = some e)
    (hown : ∀ q f, (s.plane q).erase = some f → planeOf f.sector = q)
    (hr : ∀ q u, (s.plane q).run = some u → u.claim.sector ≠ e.sector) :
    headerPending (flashRead (s.cutFlash a b) e.sector 0 32) = true ∧
        ((∀ x y, readIdentity (flashRead (s.cutFlash a b) e.sector 0 8) ≠ .valid x y) ∨
          flashRead (s.cutFlash a b) e.sector 0 8 = flashRead s.flash e.sector 0 8) ∨
      ∀ o, o < 4096 → flashByte (s.cutFlash a b) e.sector o = flashByte s.flash e.sector o := by
  obtain ⟨m, t, -, hm, hcut⟩ := State.cutFlash_sector (s := s) (a := a) (b := b) (p := p) (n := e.sector)
    (fun q hq f hf hn => hq ((hown q f hf).symm.trans (hn ▸ hown p e he))) (fun q _ v => hr q v)
  have hplane : cutPlane m (s.plane p) t = cutErase (cutProgram m (s.plane p) t.granule) e.sector t.sector := by
    unfold cutPlane abandonErase
    rw [he]
  have hprogram : ∀ o, o < 4096 → flashByte (cutProgram m (s.plane p) t.granule) e.sector o = flashByte s.flash e.sector o := fun o ho =>
    (flashByte_cutProgram_out ho fun u _ _ hu _ hn => absurd hn (hr p u hu)).trans (hm o ho)
  rw [hplane] at hcut
  unfold cutErase at hcut
  dsimp only at hcut
  split at hcut
  · next hheader =>
    unfold cutHeader at hheader
    rw [Bool.and_eq_true, Bool.or_eq_true, flashRead_take, flashRead_take, beq_iff_eq, ← flashRead_congr (by omega) hcut,
      ← flashRead_congr (by omega) hcut, flashRead_congr (by omega) hprogram] at hheader
    exact .inl ⟨hheader.1, hheader.2.imp IdentityRead.not_valid id⟩
  · exact .inr fun o ho => (hcut o ho).trans (hprogram o ho)

/-! ### Held low, and released -/

/-- The part right after a release with PFI# low: HALTED before mount has read any sector (R8). -/
def State.haltedAtOnce (flash : List Host.Cell) (pending : List Instr) : State :=
  { State.atReset flash pending with
    resetLow := false, halted := true
    eng := { Engine.reset with store := .halted }
    win := { Window.reset with iflag := 0x20 }
    pl0 := { Plane.reset with halted := true }
    pl1 := { Plane.reset with halted := true } }

theorem State.released_halted (flash : List Host.Cell) (pending : List Instr) :
    (State.atReset flash pending).leaveReset true = State.haltedAtOnce flash pending := by
  have hhalting : (State.halting { State.atReset flash pending with resetLow := false } [] []).haltQueue.haltRequest =
      State.haltedAtOnce flash pending := by
    unfold State.halting
    rw [if_neg (fun h => nomatch h)]
    exact congrArg (fun f : Byte => ({ State.haltedAtOnce flash pending with win := { Window.reset with iflag := f } } : State))
      (show (0 : Byte) ||| IntFlag.stateChg.mask = 0x20 by decide)
  have hleave : (State.atReset flash pending).leaveReset true = State.halt { State.atReset flash pending with resetLow := false } [] [] := by
    unfold State.leaveReset
    exact if_pos rfl
  rw [hleave, State.halt_eq, hhalting, State.settle_nil rfl, State.startTest_notReady (s := State.haltedAtOnce flash pending) (fun h => nomatch h)]

/-- Settles O53. -/
theorem chipReset : Obligations.ChipReset := by
  unfold Obligations.ChipReset
  refine ⟨fun s a b => ⟨_, rfl, rfl, fun n o ho he hr => ?_, fun p u data mode hu hw h5 he hr => ?_, fun p e he hown hr => ?_⟩, ?_, ?_⟩
  · exact (flashByte_cutPlane_out ho (he .p1) (hr .p1)).trans (flashByte_cutPlane_out ho (he .p0) (hr .p0))
  · exact ⟨fun i k hi _ => State.cutFlash_bits hu hw h5 he hr hi k, fun h0 hdata ha hb hold x y hv =>
      State.cutFlash_identity hu hw h5 he hr h0 hdata ha hb hold hv⟩
  · exact State.cutFlash_erase he hown hr
  · intro flash pending a b held
    refine ⟨fun c hc => ?_, rfl, ?_⟩
    · cases c with
      | chipReset edge x y => exact absurd rfl (hc edge x y)
      | readRunDone q k => cases q <;> rfl
      | granuleProgramDone q flaw => cases q <;> rfl
      | programTimeout q kept => cases q <;> rfl
      | eraseBlankCheck q left => cases q <;> rfl
      | eraseTimeout q left => cases q <;> rfl
      | suspendComplete q => cases q <;> rfl
      | _ => rfl
    · have hexec : exec (.chipReset (.released true) a b) held = .next (State.haltedAtOnce flash pending) :=
        congrArg Host.Outcome.next (State.released_halted flash pending)
      exact ⟨_, hexec, rfl, rfl, rfl, rfl, rfl, rfl, rfl, rfl, rfl, rfl⟩
  · intro s low a b hl
    show execChipReset (.released low) a b s = _
    unfold execChipReset
    dsimp only
    rw [hl]
    rfl

end Sys2Proof.Machine

/-! PROOFS. The power-fail halt (chapter 11). -/

namespace Sys2Proof.Machine

set_option Elab.async false

/-! ### The ending step in HALTED -/

/-- In HALTED the engine takes no slot (R104). -/
theorem State.takeHead_halted {s : State} (h : s.eng.store = .halted) : s.takeHead = s := by
  unfold State.takeHead
  rw [h]
  split <;> rfl

theorem State.startTest_halted {s : State} (h : s.eng.store = .halted) : s.startTest = s :=
  State.startTest_notReady (by rw [h]; exact fun h => nomatch h)

/-- The ending step in HALTED, with its signals delivered. -/
theorem State.endRequest_halted {s : State} (r : Request) (code : ResultCode) (f : ResultFields) (ha : s.agenda = [])
    (hst : s.eng.store = .halted) (hact : s.rcl.act ≠ .heldWait) (k : Nat) :
    ((s.endRequest r code f).drain (k + 2)).startTest = s.ending r code f := by
  rw [State.endRequest_drain r code f ha (fun _ => hact), State.takeHead_halted (by exact hst), State.startTest_halted (by exact hst)]

section Ending
variable {s : State} {r : Request} {code : ResultCode} {f : ResultFields} (hv : (s.slot r.slot).hidden = false)

include hv in
theorem State.endWin_visible : s.endWin r code f = { s.win with
    slots := s.win.slots.set r.slot ((s.slot r.slot).finish code f r.flags)
    iflag := s.win.iflag ||| (IntFlag.slotDone r.slot).mask } := by
  unfold State.endWin
  dsimp only
  rw [hv, if_neg Bool.false_ne_true]

include hv in
theorem State.ending_slot (n : SlotNo) :
    (s.ending r code f).slot n = if n = r.slot then (s.slot r.slot).finish code f r.flags else s.slot n := by
  have hwin : (s.ending r code f).win = _ := State.endWin_visible hv
  unfold State.slot
  rw [hwin]
  dsimp only
  rw [Fin.getElem_fin, Vector.getElem_set]
  refine if_congr ?_ rfl rfl
  rw [eq_comm, Fin.ext_iff]

include hv in
theorem State.ending_flag (x : IntFlag) :
    (s.ending r code f).win.flag x = (s.win.flag x || (IntFlag.slotDone r.slot).mask.getLsbD x.bit) := by
  have hwin : (s.ending r code f).win = _ := State.endWin_visible hv
  unfold Window.flag
  rw [hwin]
  exact BitVec.getLsbD_or

include hv in
theorem State.ending_slotDone : (s.ending r code f).win.flag (.slotDone r.slot) = true := by
  rw [State.ending_flag hv, IntFlag.getLsbD_slotDone_mask, Bool.or_true]

include hv in
theorem State.ending_queue : (s.ending r code f).win.queue = s.win.queue := by
  have hwin : (s.ending r code f).win = _ := State.endWin_visible hv
  rw [hwin]

end Ending

/-! ### What the halt makes of every block -/

/-- The part in HALTED: what the halt makes of every block, whatever becomes of an ACTIVE request (R190, R36, R172, R194). -/
structure State.Halts (s t : State) : Prop where
  latched : t.halted = true
  store : t.eng.store = .halted
  stateChg : t.win.flag .stateChg = true
  pl0 : t.pl0 = { s.pl0 with halted := true, waitReq := none, waitRec := none, erase := none }
  pl1 : t.pl1 = { s.pl1 with halted := true, waitReq := none, waitRec := none, erase := none }
  phase : t.rcl.phase = .idle
  act : t.rcl.act = .idle
  cycle : t.rcl.cycle = none
  queue : t.win.queue = []
  space : t.space = s.space
  mnt : t.mnt = s.mnt
  writeSeq : t.eng.writeSeq = s.eng.writeSeq
  agenda : t.agenda = s.agenda
  queued : ∀ n ∈ s.win.queue, t.win.flag (.slotDone n) = true ∧ t.slot n = { s.slot n with
    state := .done, code := .powerFail, fields := ResultFields.zero, flags := ResultFlags.none, ptr := 0 }
  others : ∀ n, n ∉ s.win.queue → (∀ r, s.eng.req = some r → r.slot ≠ n) → t.slot n = s.slot n
  flash : ∀ n o, o < 4096 → (∀ p e, (s.plane p).erase = some e → e.sector ≠ n) → flashByte t.flash n o = flashByte s.flash n o

/-- The part when the halt has reached all but the request engine. -/
def State.haltedQueue (s : State) (l0 l1 : List Host.Cell) : State := (s.halting l0 l1).haltQueue

section HaltedQueue
variable {s : State} (l0 l1 : List Host.Cell)

theorem State.haltedQueue_idx : (s.haltedQueue l0 l1).idx = s.idx := by
  obtain ⟨slots, iflag, heq, -⟩ := (s.halting l0 l1).haltQueue_eq
  rw [State.haltedQueue, heq]
  rfl

theorem State.haltedQueue_classes : (s.haltedQueue l0 l1).classes = s.classes := by
  obtain ⟨slots, iflag, heq, -⟩ := (s.halting l0 l1).haltQueue_eq
  rw [State.haltedQueue, heq]
  rfl

theorem State.haltedQueue_req : (s.haltedQueue l0 l1).eng.req = s.eng.req := by
  obtain ⟨slots, iflag, heq, -⟩ := (s.halting l0 l1).haltQueue_eq
  rw [State.haltedQueue, heq]
  rfl

theorem State.haltedQueue_runInService : (s.haltedQueue l0 l1).runInService .request = s.runInService .request := by
  obtain ⟨slots, iflag, heq, -⟩ := (s.halting l0 l1).haltQueue_eq
  rw [State.haltedQueue, heq]
  rfl

theorem State.haltedQueue_slot {n : SlotNo} (hn : n ∉ s.win.queue) : (s.haltedQueue l0 l1).slot n = s.slot n := by
  obtain ⟨slots, iflag, heq, hslots, -⟩ := (s.halting l0 l1).haltQueue_eq
  have hslot : (s.haltedQueue l0 l1).slot n = slots[n] := by
    rw [State.haltedQueue, heq]
    rfl
  rw [hslot, hslots, if_neg (by rwa [State.halting_queue]), State.halting_slot]

theorem State.haltedQueue_halts (hst : s.eng.store ≠ .halted) : s.Halts (s.haltedQueue l0 l1) := by
  have hother : ∀ n, n ∉ s.win.queue → (s.haltedQueue l0 l1).slot n = s.slot n := fun n hn => State.haltedQueue_slot l0 l1 hn
  obtain ⟨slots, iflag, heq, hslots, hmono, hflags⟩ := (s.halting l0 l1).haltQueue_eq
  rw [State.haltedQueue, heq]
  rw [State.haltedQueue, heq] at hother
  have hchg : iflag.getLsbD 5 = true := or_getLsbD_mono hmono (State.halting_stateChg hst l0 l1)
  exact {
    latched := rfl, store := rfl, stateChg := hchg, pl0 := rfl, pl1 := rfl, phase := rfl, act := rfl, cycle := rfl, queue := rfl
    space := rfl, mnt := rfl, writeSeq := rfl, agenda := rfl
    queued := fun n hn => by
      refine ⟨hflags n (by rwa [State.halting_queue]), (hslots n).trans ?_⟩
      rw [if_pos (by rwa [State.halting_queue]), State.halting_slot]
      rfl
    others := fun n hn _ => hother n hn
    flash := fun n o ho he =>
      (flashByte_abandonErase_out ho (he .p1)).trans (flashByte_abandonErase_out ho (he .p0)) }

end HaltedQueue

/-- The ending step of the request that was ACTIVE, its slot visible, with the index and the class table as given (R191, R192). -/
theorem State.Halts.ending {s h : State} {r : Request} {code : ResultCode} {f : ResultFields} (k : s.Halts h)
    (hr : ∃ q, s.eng.req = some q ∧ q.slot = r.slot) (hn : r.slot ∉ s.win.queue) (hv : (h.slot r.slot).hidden = false)
    (x : KeyIndex) (c : Vector ClassEntry 8) : s.Halts (({ h with idx := x, classes := c } : State).ending r code f) := by
  have hv' : (({ h with idx := x, classes := c } : State).slot r.slot).hidden = false := hv
  have hslot : ∀ n, n ≠ r.slot → (({ h with idx := x, classes := c } : State).ending r code f).slot n = h.slot n := fun n hne =>
    (State.ending_slot hv' n).trans (if_neg hne)
  have hflag : ∀ y, h.win.flag y = true → (({ h with idx := x, classes := c } : State).ending r code f).win.flag y = true := by
    intro y hy
    rw [State.ending_flag hv', show ({ h with idx := x, classes := c } : State).win.flag y = true from hy, Bool.true_or]
  exact {
    latched := k.latched, store := k.store, stateChg := hflag _ k.stateChg, pl0 := k.pl0, pl1 := k.pl1, phase := k.phase, act := k.act
    cycle := k.cycle, queue := (State.ending_queue hv').trans k.queue, space := k.space, mnt := k.mnt, writeSeq := k.writeSeq
    agenda := k.agenda
    queued := fun n hq => by
      obtain ⟨hdone, hended⟩ := k.queued n hq
      exact ⟨hflag _ hdone, (hslot n fun e => hn (e ▸ hq)).trans hended⟩
    others := fun n hq hne => by
      obtain ⟨q, hreq, hs⟩ := hr
      exact (hslot n fun e => hne q hreq (hs.trans e.symm)).trans (k.others n hq hne)
    flash := k.flash }

/-- In HALTED the ending step tells nobody anything. -/
theorem State.Halts.settle_ending {s h : State} {r : Request} {code : ResultCode} {f : ResultFields} (k : s.Halts h)
    (ha : s.agenda = []) (x : KeyIndex) (c : Vector ClassEntry 8) :
    (({ h with idx := x, classes := c } : State).endRequest r code f).settle =
      ({ h with idx := x, classes := c } : State).ending r code f := by
  rw [State.settle, settleFuel]
  exact State.endRequest_halted (s := { h with idx := x, classes := c }) r code f (k.agenda.trans ha) k.store
    (by show h.rcl.act ≠ _; rw [k.act]; exact fun e => nomatch e) 254

theorem State.Halts.settle {s h : State} (k : s.Halts h) (ha : s.agenda = []) : h.settle = h := by
  rw [State.settle, State.drain_nil (k.agenda.trans ha), State.startTest_halted k.store]

theorem exec_powerFailHalt {s : State} (hh : s.halted = false) (hl : s.resetLow = false) (l0 l1 : List Host.Cell) :
    exec (.powerFailHalt l0 l1) s = .next (s.haltedQueue l0 l1).haltRequest.settle := by
  show execPowerFailHalt l0 l1 s = _
  unfold execPowerFailHalt
  rw [hh, hl, if_neg (by exact Bool.false_ne_true), State.halt_eq]
  rfl

theorem Request.haltNow_plain {r : Request} (h1 : r.phase ≠ .retireOld) (h2 : r.phase ≠ .retireNew) (s : State) :
    r.haltNow s = s.endPlain r .powerFail := by
  unfold Request.haltNow
  split
  · next h _ => exact absurd h h1
  · next h _ => exact absurd h h2
  · rfl

theorem Request.haltNow_retireOld {r : Request} {p : Place} (h : r.phase = .retireOld) (hp : r.job.place = some p) (s : State) :
    r.haltNow s = r.publish p s := by
  unfold Request.haltNow
  rw [h, hp]

theorem State.haltRequest_waiting {s : State} (h : s.eng.req = none ∨ s.runInService .request = true) : s.haltRequest = s := by
  unfold State.haltRequest
  split
  · rfl
  · next r hr =>
    rcases h with h | h
    · exact nomatch h.symm.trans hr
    · rw [if_pos h]

theorem State.haltRequest_now {s : State} {r : Request} (hr : s.eng.req = some r) (h : s.runInService .request = false) :
    s.haltRequest = r.haltNow s := by
  unfold State.haltRequest
  rw [hr, h]
  rfl

section Halted
variable {s : State} {r : Request} (l0 l1 : List Host.Cell) (hh : s.halted = false) (hl : s.resetLow = false)
  (hst : s.eng.store ≠ .halted) (ha : s.agenda = [])

include hh hl hst ha in
/-- The halt leaves no request, or waits for the answer to its run (R191, R193). -/
theorem exec_powerFailHalt_waiting (h : s.eng.req = none ∨ s.runInService .request = true) :
    exec (.powerFailHalt l0 l1) s = .next (s.haltedQueue l0 l1) := by
  rw [exec_powerFailHalt hh hl, State.haltRequest_waiting (by rwa [State.haltedQueue_req, State.haltedQueue_runInService]),
    (State.haltedQueue_halts l0 l1 hst).settle ha]

variable (hr : s.eng.req = some r) (hrun : s.runInService .request = false)

include hh hl hst ha hr hrun in
/-- The halt ends a request without a run in service that has not committed (R191, R192). -/
theorem exec_powerFailHalt_plain (h1 : r.phase ≠ .retireOld) (h2 : r.phase ≠ .retireNew) :
    exec (.powerFailHalt l0 l1) s = .next ((s.haltedQueue l0 l1).ending r .powerFail ResultFields.zero) := by
  have hend := (State.haltedQueue_halts l0 l1 hst).settle_ending (r := r) (code := .powerFail) (f := ResultFields.zero) ha
    (s.haltedQueue l0 l1).idx (s.haltedQueue l0 l1).classes
  rw [exec_powerFailHalt hh hl, State.haltRequest_now (by rwa [State.haltedQueue_req]) (by rwa [State.haltedQueue_runInService]),
    Request.haltNow_plain h1 h2]
  exact congrArg Host.Outcome.next hend

/-- The index once PUBLISH has replaced the entry `cur` of the job's key (R89). -/
def WriteJob.over (j : WriteJob) (p : Place) (cur : Entry) (x : KeyIndex) : KeyIndex :=
  { x with
    entries := entryUpdate j.key (fun e => e.take (j.entry p)) x.entries
    counts := countMove x.counts cur.cls j.cls }

include hh hl hst ha hr hrun in
/-- The halt publishes the record of a write whose retire of the old record waits (R192). -/
theorem exec_powerFailHalt_retireOld {p : Place} {old cur : Entry} (h : r.phase = .retireOld) (hp : r.job.place = some p)
    (he : r.entry = some old) (hcur : s.idx.lookup r.job.key = some cur) :
    exec (.powerFailHalt l0 l1) s = .next (({ s.haltedQueue l0 l1 with
      idx := r.job.over p cur s.idx, classes := r.job.classesTaken s.classes } : State).ending
        { r with flags := { r.flags with replaced := true } } .ok r.job.fields) := by
  rw [exec_powerFailHalt hh hl, State.haltRequest_now (by rwa [State.haltedQueue_req]) (by rwa [State.haltedQueue_runInService]),
    Request.haltNow_retireOld h hp, Request.publish_over he (by rwa [State.haltedQueue_idx]),
    (State.haltedQueue_halts l0 l1 hst).settle_ending ha, State.haltedQueue_idx, State.haltedQueue_classes]
  rfl

end Halted

/-! ### The answer to a commit run in service at the halt (R193) -/

theorem State.deliver_halted {s : State} {r : Request} (hr : s.eng.req = some r) (hst : s.eng.store = .halted) (a : Answer) :
    s.deliver (.answer .request a) = r.haltedAnswer a s := by
  show s.requestAnswer a = _
  unfold State.requestAnswer
  rw [hr]
  dsimp only
  rw [if_pos hst]

theorem Request.haltedAnswer_committed {r : Request} {p : Place} (h : r.phase = .commit) (hab : r.aborting = false)
    (hp : r.job.place = some p) (k : Nat) (s : State) : r.haltedAnswer (.done k) s = r.publish p s := by
  unfold Request.haltedAnswer Request.haltDeliver
  rw [h, hab, hp]
  rfl

theorem Request.haltedAnswer_commitFaulted {r : Request} (h : r.phase = .commit) (hab : r.aborting = false) (k : Nat) (s : State) :
    r.haltedAnswer (.fault k) s = s.endPlain r .powerFail := by
  unfold Request.haltedAnswer Request.haltDeliver
  rw [h, hab]
  cases r.job.place <;> rfl

/-- A halted plane grants nothing. -/
theorem Plane.finishRun_halted {p : Plane} (h : p.halted = true) (k : Nat) : p.finishRun k = { p with run := none } := by
  unfold Plane.finishRun
  exact if_pos h

section HaltedCommit
variable {s : State} {r : Request} {p : PlaneId} {n : SectorNo} {o : Nat} {data : List Byte} (hst : s.eng.store = .halted)
  (hh : (s.plane p).halted = true) (hr : s.eng.req = some r) (ha : s.agenda = []) (hphase : r.phase = .commit)
  (hab : r.aborting = false) (hact : s.rcl.act = .idle) (h5 : o / 8 + 1 < 512)
  (hu : (s.plane p).run = some (commitRunOf .request n (o / 8 + 1) data))

/-- The index once PUBLISH has inserted the entry of a new key (R88). -/
def WriteJob.inserted (j : WriteJob) (q : Place) (x : KeyIndex) : KeyIndex :=
  { x with entries := entryInsert (j.entry q) x.entries, counts := countUp x.counts j.cls }

include hst hh hr ha hphase hab hact h5 hu in
/-- A commit run in service at the halt that answers DONE has committed its write (R193). -/
theorem exec_haltedCommit_done {q : Place} (hent : r.entry = none) (hp : r.job.place = some q)
    (hl : s.idx.lookup r.job.key = none) (hlen : s.idx.entries.length < 1024) (hd : data.length = 8)
    (he : flashRead s.flash n (8 * (o / 8 + 1)) 8 = List.replicate 8 0xFF) :
    ∃ m, exec (.granuleProgramDone p none) s = .next (({ s.afterRun p m with
      idx := r.job.inserted q s.idx, classes := r.job.classesTaken s.classes } : State).ending r .ok r.job.fields) := by
  obtain ⟨m, -, hexec⟩ := exec_commitRun ha hu hd h5 he (Plane.finishRun_halted hh)
  refine ⟨m, hexec.trans (congrArg Host.Outcome.next ?_)⟩
  have hpublish : r.publish q (s.afterRun p m) = ({ s.afterRun p m with
      idx := r.job.inserted q s.idx, classes := r.job.classesTaken s.classes } : State).endRequest r .ok r.job.fields := by
    rw [Request.publish_new hent (by rwa [State.afterRun_idx]) (by rwa [State.afterRun_idx]), State.afterRun_idx,
      State.afterRun_classes]
    rfl
  rw [State.deliver_halted (by rwa [State.afterRun_eng]) (by rwa [State.afterRun_eng]), Request.haltedAnswer_committed hphase hab hp,
    hpublish, State.endRequest_halted r .ok _ (by exact (s.afterRun_agenda p m).trans ha)
    (by show (s.afterRun p m).eng.store = _; rwa [State.afterRun_eng])
    (by show (s.afterRun p m).rcl.act ≠ _; rw [State.afterRun_rcl, hact]; exact fun e => nomatch e)]

include hst hh hr ha hphase hab hact h5 hu in
/-- A commit run in service at the halt that faults leaves its write uncommitted (R193). -/
theorem exec_haltedCommit_faulted (kept : List Byte) :
    ∃ m, exec (.programTimeout p kept) s = .next ((s.countProgramFault.afterRun p m).ending r .powerFail ResultFields.zero) := by
  obtain ⟨m, hexec⟩ := exec_programTimeout_last (kept := kept) ha hu rfl h5 (Plane.finishRun_halted hh)
  refine ⟨m, hexec.trans (congrArg Host.Outcome.next ?_)⟩
  rw [show (commitRunOf .request n (o / 8 + 1) data).claim.who = .request from rfl]
  have heng : (s.countProgramFault.afterRun p m).eng = s.eng := State.afterRun_eng ..
  rw [State.deliver_halted (by rwa [heng]) (by rwa [heng]), Request.haltedAnswer_commitFaulted hphase hab]
  rw [State.endPlain, State.endRequest_halted r .powerFail _ (by exact (State.afterRun_agenda ..).trans ha) (by rwa [heng])
    (by rw [State.afterRun_rcl]; show s.rcl.act ≠ _; rw [hact]; exact fun e => nomatch e)]

end HaltedCommit

/-- PUBLISH ends the request, whatever it makes of the index and the class table. -/
theorem Request.publish_ends (r : Request) (p : Place) (s : State) : ∃ x c q,
    r.publish p s = ({ s with idx := x, classes := c } : State).endRequest q .ok r.job.fields ∧ q.slot = r.slot := by
  unfold Request.publish
  dsimp only
  split
  · rw [State.takeDescriptor_eq]
    exact ⟨_, _, _, rfl, rfl⟩
  · rw [State.takeDescriptor_eq]
    exact ⟨_, _, _, rfl, rfl⟩

theorem Request.haltNow_ends (r : Request) (s : State) : ∃ x c q code f,
    r.haltNow s = ({ s with idx := x, classes := c } : State).endRequest q code f ∧ q.slot = r.slot := by
  unfold Request.haltNow
  split
  · next p _ _ =>
    obtain ⟨x, c, q, heq, hq⟩ := r.publish_ends p s
    exact ⟨x, c, q, _, _, heq, hq⟩
  · next p _ _ =>
    obtain ⟨x, c, q, heq, hq⟩ := r.publish_ends p s
    exact ⟨x, c, q, _, _, heq, hq⟩
  · exact ⟨s.idx, s.classes, r, _, _, rfl, rfl⟩

/-- What the halt makes of the part, whatever the ACTIVE request is doing (R190 to R194). -/
theorem exec_powerFailHalt_halts {s : State} (l0 l1 : List Host.Cell) (hh : s.halted = false) (hl : s.resetLow = false)
    (hst : s.eng.store ≠ .halted) (ha : s.agenda = [])
    (hreq : ∀ r, s.eng.req = some r → r.slot ∉ s.win.queue ∧ (s.slot r.slot).hidden = false) :
    ∃ t, exec (.powerFailHalt l0 l1) s = .next t ∧ s.Halts t := by
  have hhalts := State.haltedQueue_halts (s := s) l0 l1 hst
  by_cases hwait : s.eng.req = none ∨ s.runInService .request = true
  · exact ⟨_, exec_powerFailHalt_waiting l0 l1 hh hl hst ha hwait, hhalts⟩
  · obtain ⟨hsome, hrun⟩ := not_or.1 hwait
    obtain ⟨r, hr⟩ := Option.ne_none_iff_exists'.1 hsome
    obtain ⟨hn, hv⟩ := hreq r hr
    obtain ⟨x, c, q, code, f, hends, hq⟩ := r.haltNow_ends (s.haltedQueue l0 l1)
    rw [exec_powerFailHalt hh hl, State.haltRequest_now (by rwa [State.haltedQueue_req])
      (by rw [State.haltedQueue_runInService]; exact Bool.eq_false_iff.2 hrun), hends, hhalts.settle_ending ha]
    exact ⟨_, rfl, hhalts.ending ⟨r, hr, hq.symm⟩ (hq ▸ hn) (by rwa [hq, State.haltedQueue_slot l0 l1 hn]) x c⟩

/-- The slot of a request that the halt ends, and its flag. -/
theorem State.haltedQueue_ending_slot {s : State} {r : Request} {code : ResultCode} {f : ResultFields} (l0 l1 : List Host.Cell)
    (hn : r.slot ∉ s.win.queue) (hv : (s.slot r.slot).hidden = false) (x : KeyIndex) (c : Vector ClassEntry 8) :
    (({ s.haltedQueue l0 l1 with idx := x, classes := c } : State).ending r code f).win.flag (.slotDone r.slot) = true ∧
      (({ s.haltedQueue l0 l1 with idx := x, classes := c } : State).ending r code f).slot r.slot =
        (s.slot r.slot).finish code f r.flags := by
  have hslot : ({ s.haltedQueue l0 l1 with idx := x, classes := c } : State).slot r.slot = s.slot r.slot :=
    State.haltedQueue_slot l0 l1 hn
  refine ⟨State.ending_slotDone (by rwa [hslot]), (State.ending_slot (by rwa [hslot]) r.slot).trans ?_⟩
  rw [if_pos rfl, hslot]

/-- Settles O55: the halt by the state of the ACTIVE request, and the answer to a commit run that was in service. -/
theorem powerFailHalt : Obligations.PowerFailHalt := by
  unfold Obligations.PowerFailHalt
  constructor
  · intro s l0 l1
    refine ⟨fun hh => ?_, fun hh hl hst ha _ _ hreq => ?_⟩
    · show execPowerFailHalt l0 l1 s = _
      unfold execPowerFailHalt
      rw [hh]
      rfl
    · obtain ⟨t, hexec, k⟩ := exec_powerFailHalt_halts l0 l1 hh hl hst ha hreq
      refine ⟨t, hexec, k.latched, k.store, k.stateChg, k.pl0, k.pl1, k.phase, k.cycle, k.queue, k.space, k.mnt, k.writeSeq, k.queued,
        fun hr => ?_, fun r hr hrun => ?_, fun r hr hrun h1 h2 => ?_, fun r pl old cur hr hrun hp hpl he hcur => ?_, k.others, k.flash⟩
      · obtain rfl := Host.Outcome.next.inj (hexec.symm.trans (exec_powerFailHalt_waiting l0 l1 hh hl hst ha (.inl hr)))
        exact ⟨(State.haltedQueue_req l0 l1).trans hr, State.haltedQueue_idx l0 l1, State.haltedQueue_classes l0 l1⟩
      · obtain rfl := Host.Outcome.next.inj (hexec.symm.trans (exec_powerFailHalt_waiting l0 l1 hh hl hst ha (.inr hrun)))
        exact ⟨(State.haltedQueue_req l0 l1).trans hr, State.haltedQueue_slot l0 l1 (hreq r hr).1, State.haltedQueue_idx l0 l1,
          State.haltedQueue_classes l0 l1⟩
      · obtain rfl := Host.Outcome.next.inj (hexec.symm.trans (exec_powerFailHalt_plain l0 l1 hh hl hst ha hr hrun h1 h2))
        obtain ⟨hflag, hslot⟩ := State.haltedQueue_ending_slot (code := .powerFail) (f := ResultFields.zero) l0 l1 (hreq r hr).1
          (hreq r hr).2 (s.haltedQueue l0 l1).idx (s.haltedQueue l0 l1).classes
        exact ⟨rfl, congrArg KeyIndex.freed (State.haltedQueue_idx l0 l1), State.haltedQueue_classes l0 l1, hflag, hslot⟩
      · obtain rfl := Host.Outcome.next.inj (hexec.symm.trans
          (exec_powerFailHalt_retireOld l0 l1 hh hl hst ha hr hrun hp hpl he hcur))
        obtain ⟨hflag, hslot⟩ := State.haltedQueue_ending_slot (r := { r with flags := { r.flags with replaced := true } })
          (code := .ok) (f := r.job.fields) l0 l1 (hreq r hr).1 (hreq r hr).2 (r.job.over pl cur s.idx) (r.job.classesTaken s.classes)
        exact ⟨rfl, hflag, lookup_taken (e := r.job.entry pl) hcur rfl, hslot⟩
  · intro s r p u n o data kept hst hh hr ha hv hn hphase hab hent hpl hhold hwait hact hl hlen hu hd h5 he hrun fields
    have hcommit : (s.plane p).run = some (commitRunOf .request n (o / 8 + 1) data) := hrun.trans (congrArg some hu)
    constructor
    · obtain ⟨m, hexec⟩ := exec_haltedCommit_done hst hh hr ha hphase hab hact h5 hcommit hent hpl hl hlen hd he
      have hslot : ({ s.afterRun p m with
          idx := r.job.inserted { sector := n, offset := o } s.idx, classes := r.job.classesTaken s.classes } : State).slot r.slot = s.slot r.slot :=
        s.afterRun_slot p m r.slot
      refine ⟨_, hexec, rfl, (State.ending_slot (by rwa [hslot]) r.slot).trans ?_, fun k => ?_⟩
      · rw [if_pos rfl, hslot]
        rfl
      · exact KeyIndex.lookup_insert_entries (e := r.job.entry { sector := n, offset := o }) hl rfl k
    · obtain ⟨m, hexec⟩ := exec_haltedCommit_faulted hst hh hr ha hphase hab hact h5 hcommit kept
      have hslot : (s.countProgramFault.afterRun p m).slot r.slot = s.slot r.slot := State.afterRun_slot ..
      refine ⟨_, hexec, rfl, (State.ending_slot (by rwa [hslot]) r.slot).trans ?_, ?_⟩
      · rw [if_pos rfl, hslot]
        rfl
      · show (s.countProgramFault.afterRun p m).idx.freed = _
        rw [State.afterRun_idx, KeyIndex.freed, ← hwait]
        rfl

end Sys2Proof.Machine

/-! PROOFS. Mount (chapter 10): the runs that it claims one after another, its end, REPAIR and CLASSES. -/

namespace Sys2Proof.Machine

set_option Elab.async false

/-! ### Mount and its one run -/

/-- A run of mount as it is granted. -/
def mountRun (n : SectorNo) (first : Nat) (work : Work) : Run :=
  { claim := { who := .mount, sector := n, first := first, work := work }, done := 0, stop := false }

/-- Mount has its run `u` in service on plane `p` and nothing else is in hand on either plane. -/
structure State.MountRun (s : State) (p : PlaneId) (u : Run) : Prop where
  store : s.eng.store = .mounting
  quiet : s.agenda = []
  run : (s.plane p).run = some u
  who : u.claim.who = .mount
  done : u.done = 0
  stop : u.stop = false
  planes : ∀ q, ({ s.plane q with run := none } : Plane) = Plane.reset
  others : ∀ q, q ≠ p → (s.plane q).run = none
  noReq : s.eng.req = none
  here : p = planeOf u.claim.sector

/-- Mount stands between two runs: nothing is in hand on either plane. -/
structure State.Between (x : State) : Prop where
  pl0 : x.pl0 = Plane.reset
  pl1 : x.pl1 = Plane.reset
  store : x.eng.store = .mounting
  quiet : x.agenda = []

/-- The state with the run of mount ended and flash as given. -/
def State.unclaimed (s : State) (m : List Host.Cell) : State := { s with pl0 := Plane.reset, pl1 := Plane.reset, flash := m }

/-- The state with a run of mount granted on planes where nothing is in hand. -/
def State.mountClaim (x : State) (n : SectorNo) (first : Nat) (work : Work) : State :=
  x.setPlane (planeOf n) { Plane.reset with run := some (mountRun n first work) }

/-- The run `v` is granted on plane `q` and nothing else is in hand. -/
def State.Granted (t : State) (q : PlaneId) (v : Run) : Prop :=
  t.plane q = { Plane.reset with run := some v } ∧ ∀ q', q' ≠ q → t.plane q' = Plane.reset

/-- `t` is `x` with a run of mount granted. -/
structure State.Claims (x : State) (n : SectorNo) (first : Nat) (work : Work) (t : State) : Prop where
  granted : t.Granted (planeOf n) (mountRun n first work)
  eng : t.eng = x.eng
  win : t.win = x.win
  idx : t.idx = x.idx
  classes : t.classes = x.classes
  space : t.space = x.space
  mnt : t.mnt = x.mnt
  flash : t.flash = x.flash

theorem State.Claims.sector {x t : State} {n : SectorNo} {first : Nat} {work : Work} (h : x.Claims n first work t) (m : SectorNo) :
    t.sector m = x.sector m :=
  congrArg (fun y : Space => y.sectors[m]) h.space

section Between
variable {x : State} (h : x.Between) (n : SectorNo) (first : Nat) (work : Work)

include h in
theorem State.Between.plane (q : PlaneId) : x.plane q = Plane.reset := by
  cases q
  · exact h.pl0
  · exact h.pl1

include h in
theorem State.Between.claim (hw : work.isErase = false) :
    x.claim { who := .mount, sector := n, first := first, work := work } = x.mountClaim n first work := by
  rw [State.claim_idle (by rw [h.plane]; exact ⟨rfl, rfl, rfl, rfl, rfl⟩) hw, h.plane]
  rfl

include h in
theorem State.Between.claims : x.Claims n first work (x.mountClaim n first work) := by
  exact {
    granted := ⟨State.plane_setPlane_same .., fun q hq => (State.plane_setPlane_ne x hq _).trans (h.plane q)⟩
    eng := State.setPlane_eng .., win := State.setPlane_win .., idx := State.setPlane_idx .., classes := State.setPlane_classes ..
    space := State.setPlane_space .., mnt := State.setPlane_mnt .., flash := State.setPlane_flash .. }

include h in
/-- A granted run tells nobody anything. -/
theorem State.Between.settled (k : Nat) : ((x.mountClaim n first work).drain k).startTest = x.mountClaim n first work := by
  have hstore : (x.mountClaim n first work).eng.store = .mounting := by
    rw [State.mountClaim, State.setPlane_eng]
    exact h.store
  rw [State.drain_nil (by rw [State.mountClaim, State.setPlane_agenda]; exact h.quiet),
    State.startTest_notReady (by rw [hstore]; exact fun e => nomatch e)]

end Between

section MountRun
variable {s : State} {p : PlaneId} {u : Run} (h : s.MountRun p u)

include h in
theorem State.MountRun.idle : ({ s.plane p with run := none } : Plane).Idle := by
  rw [h.planes p]
  exact ⟨rfl, rfl, rfl, rfl, rfl⟩

include h in
theorem State.MountRun.afterRun (m : List Host.Cell) : s.afterRun p m = s.unclaimed m := by
  have hother : ∀ q, q ≠ p → s.plane q = Plane.reset := fun q hq => by
    rw [← h.planes q, ← h.others q hq]
  unfold State.afterRun State.unclaimed
  rw [h.planes p]
  cases p
  · rw [← hother .p1 (fun e => nomatch e)]
    rfl
  · rw [← hother .p0 (fun e => nomatch e)]
    rfl

include h in
theorem State.MountRun.between (m : List Host.Cell) : (s.unclaimed m).Between := ⟨rfl, rfl, h.store, h.quiet⟩

include h in
/-- A read run of mount has ended: mount acts on its bytes (R175, R180, R184). -/
theorem State.MountRun.read {count : Nat} (hw : u.claim.work = .read count) (h5 : u.claim.first + count ≤ 512) (i : Nat) :
    exec (.readRunDone p i) s = .next ((((s.unclaimed s.flash).mountAnswer
      (.bytes (flashRead s.flash u.claim.sector (8 * u.claim.first) (8 * count)))).drain 255).startTest) := by
  rw [exec_readRunDone_bytes h.quiet h.run hw h5 h.stop h.idle i, h.afterRun, h.who]
  rfl

include h in
/-- A read run of mount has ended after which mount claims its next run. -/
theorem State.MountRun.read_claims {count : Nat} (hw : u.claim.work = .read count) (h5 : u.claim.first + count ≤ 512) (i : Nat)
    {x : State} {n : SectorNo} {first : Nat} {work : Work} (hx : x.Between)
    (hans : (s.unclaimed s.flash).mountAnswer (.bytes (flashRead s.flash u.claim.sector (8 * u.claim.first) (8 * count))) =
      x.mountClaim n first work) :
    ∃ t, exec (.readRunDone p i) s = .next t ∧ x.Claims n first work t := by
  rw [h.read hw h5 i, hans, hx.settled]
  exact ⟨_, rfl, hx.claims n first work⟩

end MountRun

/-! ### What mount does with an answer -/

section Answers
variable {x : State} (h : x.eng.store = .mounting)

include h in
theorem State.mountAnswer_headers (hp : x.mnt.phase = .headers) (hw : x.mnt.wholeRecord = false) (d : List Byte) :
    x.mountAnswer (.bytes d) = x.headerRead d := by
  unfold State.mountAnswer
  rw [if_neg (not_not.2 h), hp, hw]

include h in
theorem State.mountAnswer_recordArea (hp : x.mnt.phase = .headers) (hw : x.mnt.wholeRecord = true) (d : List Byte) :
    x.mountAnswer (.bytes d) = x.recordAreaRead d := by
  unfold State.mountAnswer
  rw [if_neg (not_not.2 h), hp, hw]

include h in
theorem State.mountAnswer_descriptor (hp : x.mnt.phase = .records) (hw : x.mnt.wholeRecord = false) (d : List Byte) :
    x.mountAnswer (.bytes d) = x.walkedDescriptor d := by
  unfold State.mountAnswer
  rw [if_neg (not_not.2 h), hp, hw]

include h in
theorem State.mountAnswer_record (hp : x.mnt.phase = .records) (hw : x.mnt.wholeRecord = true) (d : List Byte) :
    x.mountAnswer (.bytes d) = x.walkedRecord d := by
  unfold State.mountAnswer
  rw [if_neg (not_not.2 h), hp, hw]

include h in
theorem State.mountAnswer_classes (hp : x.mnt.phase = .classes) (d : List Byte) : x.mountAnswer (.bytes d) = x.classRead d := by
  unfold State.mountAnswer
  rw [if_neg (not_not.2 h), hp]

include h in
theorem State.mountAnswer_repair (hp : x.mnt.phase = .repair) (a : Answer) : x.mountAnswer a = x.repairAnswer a := by
  unfold State.mountAnswer
  rw [if_neg (not_not.2 h), hp]

end Answers

/-! ### The end of mount (R186) -/

/-- The mount logic once mount has ended (R174). -/
def Mount.ended (m : Mount) : Mount :=
  { m with phase := .none, candidates := [], versionWalk := [], repairs := [], wholeRecord := false }

/-- The state with mount ended in the store state given, and the reclaim engine as given (R8, R186). -/
def State.mountEnded (x : State) (to_ : StoreState) (v : Reclaim) : State :=
  { x with mnt := x.mnt.ended, eng := { x.eng with store := to_ }, win := x.win.raise .stateChg, rcl := v }

theorem State.mountedState_cases (x : State) : x.mountedState = .readOnly ∨ x.mountedState = .ready := by
  unfold State.mountedState
  split
  · exact .inl rfl
  · exact .inr rfl

/-- With no request and none queued the engine takes none. -/
theorem State.takeHead_none {s : State} (hr : s.eng.req = none) (hq : s.win.queue = []) : s.takeHead = s := by
  unfold State.takeHead
  rw [hr, hq]

section End
variable {x : State} (hst : x.eng.store = .mounting)

include hst in
theorem State.finishMount_ready : x.finishMount .ready =
    { x.mountEnded .ready { x.rcl with noVictim := false } with agenda := x.agenda ++ [.take] } := by
  have hne : ¬ (x.eng.store = .ready ∨ x.eng.store = .halted) := by
    rw [hst]
    exact fun e => e.elim (fun e => nomatch e) (fun e => nomatch e)
  unfold State.finishMount State.setStore
  rw [if_neg (by exact hne)]
  rfl

include hst in
theorem State.finishMount_unformatted : x.finishMount .unformatted =
    { x.mountEnded .unformatted x.rcl with agenda := x.agenda ++ [.take] } := by
  have hne : ¬ (x.eng.store = .unformatted ∨ x.eng.store = .halted) := by
    rw [hst]
    exact fun e => e.elim (fun e => nomatch e) (fun e => nomatch e)
  unfold State.finishMount State.setStore
  rw [if_neg (by exact hne)]
  rfl

include hst in
theorem State.finishMount_readOnly : x.finishMount .readOnly =
    { x.mountEnded .readOnly x.rcl with agenda := x.agenda ++ [.storeReadOnly] ++ [.take] } := by
  have hne : ¬ (x.eng.store = .readOnly ∨ x.eng.store = .halted) := by
    rw [hst]
    exact fun e => e.elim (fun e => nomatch e) (fun e => nomatch e)
  unfold State.finishMount State.setStore
  rw [if_neg (by exact hne)]
  rfl

variable (ha : x.agenda = []) (hr : x.eng.req = none) (hq : x.win.queue = []) (hi : x.rcl.phase = .idle)

include hst ha hr hq hi in
/-- Mount ends with an idle reclaim engine and nothing queued. -/
theorem State.finishMount_ends {to_ : StoreState} (hto : to_ = .readOnly ∨ to_ = .ready) :
    ∃ v, ((x.finishMount to_).drain 255).startTest = x.mountEnded to_ v := by
  have hself : ∀ v, ({ x.mountEnded to_ v with agenda := [] } : State) = x.mountEnded to_ v := fun v => by
    rw [← ha]
    rfl
  have htake : ∀ v k, ({ x.mountEnded to_ v with agenda := [.take] } : State).drain (k + 1) = x.mountEnded to_ v := fun v k => by
    rw [State.drain_take rfl]
    exact (congrArg State.takeHead (hself v)).trans (State.takeHead_none hr hq)
  have hdrain : ∃ v, (x.finishMount to_).drain 255 = x.mountEnded to_ v := by
    rcases hto with rfl | rfl
    · refine ⟨x.rcl, ?_⟩
      rw [State.finishMount_readOnly hst, ha, State.drain_cons (x := .storeReadOnly) (l := [.take]) rfl]
      have hdeliver : ({ x.mountEnded .readOnly x.rcl with agenda := [.take] } : State).deliver .storeReadOnly =
          { x.mountEnded .readOnly x.rcl with agenda := [.take] } := by
        show State.requestReadOnly (State.reclaimReadOnly _) = _
        unfold State.reclaimReadOnly State.requestReadOnly
        rw [if_pos (by exact hi), show ({ x.mountEnded .readOnly x.rcl with agenda := [.take] } : State).eng.req = none from hr]
      exact (congrArg (fun y : State => y.drain 254) hdeliver).trans (htake _ 253)
    · refine ⟨{ x.rcl with noVictim := false }, ?_⟩
      rw [State.finishMount_ready hst, ha]
      exact htake _ 254
  obtain ⟨v, hv⟩ := hdrain
  obtain ⟨hbec, -⟩ := State.startTest_becomes (x.mountEnded to_ v)
  rw [hv]
  exact ⟨_, hbec⟩

end End

/-! ### REPAIR (R185) -/

/-- What the end of mount shows (R186), for the state `x` in which it is decided. -/
def State.MountDone (x t : State) : Prop :=
  t.eng.store = x.mountedState ∧ t.eng.writeSeq = x.eng.writeSeq ∧ t.mnt.phase = .none ∧ t.win.flag .stateChg = true ∧
    t.idx = x.idx ∧ t.classes = x.classes ∧ t.space = x.space ∧ (∀ q, t.plane q = Plane.reset) ∧ t.flash = x.flash

theorem State.mountEnded_done {x : State} (h : x.Between) (v : Reclaim) : x.MountDone (x.mountEnded x.mountedState v) := by
  refine ⟨rfl, rfl, rfl, ?_, rfl, rfl, rfl, fun q => ?_, rfl⟩
  · show (x.win.iflag ||| IntFlag.stateChg.mask).getLsbD 5 = true
    rw [BitVec.getLsbD_or, getLsbD_stateChg_mask, Bool.or_true]
  · cases q
    · exact h.pl0
    · exact h.pl1

section Repairs
variable {x : State} (h : x.Between)

include h in
theorem State.Between.putSector (n : SectorNo) (e : SectorEntry) : (x.putSector n e).Between := ⟨h.pl0, h.pl1, h.store, h.quiet⟩

include h in
theorem State.Between.setMount (m : Mount) : (x.setMount m).Between := ⟨h.pl0, h.pl1, h.store, h.quiet⟩

include h in
theorem State.Between.setClasses (c : Vector ClassEntry 8) : ({ x with classes := c } : State).Between :=
  ⟨h.pl0, h.pl1, h.store, h.quiet⟩

include h in
theorem State.Between.setWriteSeq (v : Nat) : ({ x with eng := { x.eng with writeSeq := v } } : State).Between :=
  ⟨h.pl0, h.pl1, h.store, h.quiet⟩

include h in
/-- The next repair is claimed (R185). -/
theorem State.Between.nextRepair {a : Repair} {l : List Repair} (hl : x.mnt.repairs = a :: l) :
    x.nextRepair = x.mountClaim a.place.sector (a.place.offset / 8 + 2) (.program markGranule .notErased) := by
  unfold State.nextRepair
  rw [hl]
  exact h.claim _ _ _ rfl

include h in
/-- With no repair left mount ends (R186). -/
theorem State.Between.nextRepair_ends (hl : x.mnt.repairs = []) (hr : x.eng.req = none) (hq : x.win.queue = [])
    (hi : x.rcl.phase = .idle) : ∃ t, (x.nextRepair.drain 255).startTest = t ∧ x.MountDone t := by
  obtain ⟨v, hv⟩ := State.finishMount_ends h.store h.quiet hr hq hi x.mountedState_cases
  unfold State.nextRepair
  rw [hl]
  dsimp only
  rw [hv]
  exact ⟨_, rfl, State.mountEnded_done h v⟩

end Repairs

section RepairRun
variable {s : State} {p : PlaneId} {u : Run} (h : s.MountRun p u) (hp : s.mnt.phase = .repair)
  (hw : u.claim.work = .program markGranule .notErased) (h5 : u.claim.first < 512)

include h hw in
theorem State.MountRun.retireRun : u = retireRunOf .mount u.claim.sector u.claim.first := by
  obtain ⟨⟨who, n, first, work⟩, done, stop⟩ := u
  obtain rfl : who = .mount := h.who
  obtain rfl : done = 0 := h.done
  obtain rfl : stop = false := h.stop
  obtain rfl : work = .program markGranule .notErased := hw
  rfl

include h hp hw h5 in
/-- A repair is effective: its record counts stale (R185). -/
theorem exec_repairDone {a : Repair} {l : List Repair} (hl : s.mnt.repairs = a :: l) :
    ∃ m, exec (.granuleProgramDone p none) s = .next (((((s.unclaimed m).putSector a.place.sector
      ((s.sector a.place.sector).makeStale a.footprint)).setMount { s.mnt with repairs := l }).nextRepair.drain 255).startTest) := by
  obtain ⟨m, -, hexec⟩ := exec_retireRun h.quiet (h.run.trans (congrArg some (h.retireRun hw))) h5 h.idle
  have hanswer : (s.unclaimed m).mountAnswer (.done 1) = (((s.unclaimed m).putSector a.place.sector
      ((s.sector a.place.sector).makeStale a.footprint)).setMount { s.mnt with repairs := l }).nextRepair := by
    rw [State.mountAnswer_repair (by exact h.store) (by exact hp)]
    unfold State.repairAnswer
    rw [show (s.unclaimed m).mnt.repairs = a :: l from hl]
    rfl
  refine ⟨m, hexec.trans (congrArg Host.Outcome.next ?_)⟩
  rw [h.afterRun, ← hanswer]
  rfl

include h hp hw h5 in
/-- A repair faults: its record stays live in a sector now suspect, and the failure is noted (R185). -/
theorem exec_repairFault {a : Repair} {l : List Repair} (hl : s.mnt.repairs = a :: l) (kept : List Byte) :
    ∃ m, exec (.programTimeout p kept) s = .next (((((s.countProgramFault.unclaimed m).putSector a.place.sector
      (s.sector a.place.sector).faulted).setMount { s.mnt with repairs := l, repairFailed := true }).nextRepair.drain 255).startTest) := by
  obtain ⟨m, hexec⟩ := exec_programTimeout_last (kept := kept) h.quiet h.run hw (by rw [h.done]; exact h5) (Plane.finishRun_idle h.idle)
  have hplane : ∀ q, s.countProgramFault.plane q = s.plane q := fun q => by cases q <;> rfl
  have hcounted : s.countProgramFault.MountRun p u :=
    { h with
      run := (congrArg Plane.run (hplane p)).trans h.run
      planes := fun q => (congrArg (fun x : Plane => { x with run := none }) (hplane q)).trans (h.planes q)
      others := fun q hq => (congrArg Plane.run (hplane q)).trans (h.others q hq) }
  have hanswer : (s.countProgramFault.unclaimed m).mountAnswer (.fault u.done) = (((s.countProgramFault.unclaimed m).putSector
      a.place.sector (s.sector a.place.sector).faulted).setMount { s.mnt with repairs := l, repairFailed := true }).nextRepair := by
    rw [State.mountAnswer_repair (by exact h.store) (by exact hp)]
    unfold State.repairAnswer
    rw [show (s.countProgramFault.unclaimed m).mnt.repairs = a :: l from hl]
    rfl
  refine ⟨m, hexec.trans (congrArg Host.Outcome.next ?_)⟩
  rw [hcounted.afterRun, ← hanswer, h.who]
  rfl

end RepairRun

end Sys2Proof.Machine

/-! PROOFS. Mount (chapter 10): the end of RECORDS, CLASSES and REPAIR, step by step. -/

namespace Sys2Proof.Machine

set_option Elab.async false

/-! ### CLASSES (R184) -/

theorem footprint_granules (len : Nat) : footprint len / 8 = 3 + (len + 7) / 8 := by
  unfold footprint
  omega

/-- No class from `8 - k` upward has a descriptor: REPAIR begins. -/
theorem State.loadClasses_none {x : State} : ∀ {k : Nat}, k ≤ 8 →
    (∀ c < 8, 8 ≤ c + k → x.idx.lookup (0xFF00 + c) = none) → x.loadClasses k = x.beginRepair
  | 0, _, _ => rfl
  | k + 1, hk, h => by
    have hc : x.idx.lookup (0xFF00 + (7 - k)) = none := h (7 - k) (by omega) (by omega)
    unfold State.loadClasses
    dsimp only
    rw [hc]
    exact State.loadClasses_none (by omega) fun c h8 hck => h c h8 (by omega)

/-- The record of the lowest class from `8 - k` upward that has a descriptor is read. -/
theorem State.Between.loadClasses_some {x : State} (hx : x.Between) {c : Nat} (h8 : c < 8) {e : Entry}
    (he : x.idx.lookup (0xFF00 + c) = some e) : ∀ {k : Nat}, k ≤ 8 → 8 ≤ c + k →
      (∀ d < c, 8 ≤ d + k → x.idx.lookup (0xFF00 + d) = none) →
        x.loadClasses k = (x.setMount { x.mnt with cls := c }).mountClaim e.place.sector (e.place.offset / 8)
          (.read (3 + (e.length + 7) / 8))
  | 0, _, hck, _ => absurd hck (by omega)
  | k + 1, hk, hck, h => by
    unfold State.loadClasses
    dsimp only
    by_cases hc : 7 - k = c
    · rw [hc, he]
      dsimp only
      rw [footprint_granules]
      exact (hx.setMount _).claim _ _ _ rfl
    · rw [h (7 - k) (by omega) (by omega)]
      exact State.Between.loadClasses_some hx h8 he (by omega) (by omega) fun d hd hdk => h d hd (by omega)

/-- REPAIR with nothing to repair ends mount (R186). -/
theorem State.Between.beginRepair_ends {x : State} (h : x.Between) (hl : x.mnt.repairs = []) (hr : x.eng.req = none)
    (hq : x.win.queue = []) (hi : x.rcl.phase = .idle) : ∃ t, (x.beginRepair.drain 255).startTest = t ∧ x.MountDone t :=
  (h.setMount { x.mnt with phase := .repair }).nextRepair_ends hl hr hq hi

/-- A class descriptor that can be taken as it stands (R153), from the record's bytes. -/
def TakenAsItStands (record : List Byte) (e : Entry) (count : Nat) : Prop :=
  recordPasses record e = true ∧ e.length = 3 ∧ (record.getD 24 0).toNat < 3 ∧
    (record.getD 25 0).toNat + 256 * (record.getD 26 0).toNat ≤ 1024 ∧
      ((record.getD 25 0).toNat + 256 * (record.getD 26 0).toNat = 0 ∨
        count ≤ (record.getD 25 0).toNat + 256 * (record.getD 26 0).toNat)

theorem ofBytes_two {l : List Byte} (h : 27 ≤ l.length) :
    ofBytes ((l.drop 25).take 2) = (l.getD 25 0).toNat + 256 * (l.getD 26 0).toNat := by
  have htwo : (l.drop 25).take 2 = [l.getD 25 0, l.getD 26 0] := by
    rw [List.drop_eq_getElem_cons (by omega), List.drop_eq_getElem_cons (by omega), List.getD_eq_getElem _ _ (by omega),
      List.getD_eq_getElem _ _ (by omega)]
    rfl
  rw [htwo]
  rfl

theorem loadedClass_taken {record : List Byte} {e : Entry} {count : Nat} (hlen : 27 ≤ record.length)
    (h : TakenAsItStands record e count) : loadedClass record e count =
      { policy := if (record.getD 24 0).toNat = 0 then .rewritable else if (record.getD 24 0).toNat = 1 then .writeOnce else .frozen
        quota := (record.getD 25 0).toNat + 256 * (record.getD 26 0).toNat, present := true } := by
  obtain ⟨hpass, h3, hcode, hcap, hquota⟩ := h
  have hconfig : Config.indexCapacity = 1024 := rfl
  unfold loadedClass
  rw [ofBytes_two hlen, hpass, h3, hconfig]
  generalize (record.getD 25 0).toNat + 256 * (record.getD 26 0).toNat = quota at hcap hquota ⊢
  have hall : (!true || 3 != 3 || decide (3 ≤ (record.getD 24 0).toNat) || decide (1024 < quota) ||
      (quota != 0 && decide (quota < count))) = false := by
    have hover : (quota != 0 && decide (quota < count)) = false := by
      rw [Bool.and_eq_false_iff, bne_eq_false_iff_eq, decide_eq_false_iff_not]
      omega
    rw [hover, decide_eq_false (by omega), decide_eq_false (by omega)]
    rfl
  dsimp only
  rw [hall, if_neg Bool.false_ne_true]

theorem loadedClass_frozen {record : List Byte} {e : Entry} {count : Nat} (hlen : e.length = 3 → 27 ≤ record.length)
    (h : ¬ TakenAsItStands record e count) :
    loadedClass record e count = { policy := .frozen, quota := 0, present := true } := by
  unfold loadedClass
  dsimp only
  refine if_pos (by_contra fun hfalse => h ?_)
  have hconfig : Config.indexCapacity = 1024 := rfl
  simp only [Bool.not_eq_true, Bool.or_eq_false_iff, Bool.not_eq_false', bne_eq_false_iff_eq, decide_eq_false_iff_not,
    Bool.and_eq_false_iff, hconfig] at hfalse
  obtain ⟨⟨⟨⟨hpass, h3⟩, hcode⟩, hcap⟩, hquota⟩ := hfalse
  rw [ofBytes_two (hlen h3)] at hcap hquota
  exact ⟨hpass, h3, by omega, by omega, by omega⟩

/-! ### The end of RECORDS (R183) -/

/-- The state with the version counter set and CLASSES begun (R183). -/
def State.classesBegun (x : State) : State :=
  { x with
    eng := { x.eng with writeSeq := x.mnt.verMax + 1 }
    mnt := { x.mnt with candidates := [], phase := .classes, cls := 0 } }

theorem State.Between.classesBegun {x : State} (h : x.Between) : x.classesBegun.Between := ⟨h.pl0, h.pl1, h.store, h.quiet⟩

theorem chainStep_erased (o : Nat) : chainStep o (List.replicate 8 0xFF) = .ended := by
  unfold chainStep
  exact if_pos ((allErased_granule (List.length_replicate ..)).2 rfl)

theorem State.nextWalk_none {x : State} (hc : x.mnt.candidates = []) (hv : x.mnt.versionWalk = []) : x.nextWalk = x.recordsDone := by
  unfold State.nextWalk
  rw [hc, hv]

/-- The last walk ends at an erased granule. -/
theorem State.walkedDescriptor_last {x : State} {c : Candidate} (hc : x.mnt.candidates = [c]) (hv : x.mnt.versionWalk = []) :
    x.walkedDescriptor (List.replicate 8 0xFF) = x.classesBegun.loadClasses 8 := by
  unfold State.walkedDescriptor
  rw [chainStep_erased]
  dsimp only
  unfold State.walkDone
  rw [hc]
  exact State.nextWalk_none rfl hv

section ClassSteps
variable {s : State} {p : PlaneId} {u : Run} (h : s.MountRun p u)

/-- The state of `MountSteps` in which mount goes on from CLASSES or ends, by the classes from `low` upward. -/
structure State.LoadsClasses (s x : State) (i : Instr) (low : Nat) : Prop where
  /-- The descriptor record of the lowest class that has one is read. -/
  reads : ∀ (c : Nat) (e : Entry), c < 8 → low ≤ c → x.idx.lookup (0xFF00 + c) = some e →
    (∀ d < c, low ≤ d → x.idx.lookup (0xFF00 + d) = none) → ∃ t, exec i s = .next t ∧
      (x.setMount { x.mnt with cls := c }).Claims e.place.sector (e.place.offset / 8) (.read (3 + (e.length + 7) / 8)) t
  /-- With none and nothing to repair mount ends. -/
  ends : (∀ c < 8, low ≤ c → x.idx.lookup (0xFF00 + c) = none) → x.mnt.repairs = [] → x.eng.req = none → x.win.queue = [] →
    x.rcl.phase = .idle → ∃ t, exec i s = .next t ∧ x.MountDone t

/-- A step that ends in the loading of the classes from `low` upward. -/
theorem State.Between.loadsClasses {x : State} (hx : x.Between) {i : Instr} {low : Nat} (hlow : low ≤ 8)
    (hexec : exec i s = .next (((x.loadClasses (8 - low)).drain 255).startTest)) : s.LoadsClasses x i low := by
  constructor
  · intro c e h8 hc he hnone
    rw [hx.loadClasses_some h8 he (by omega) (by omega) fun d hd hdl => hnone d hd (by omega), (hx.setMount _).settled] at hexec
    exact ⟨_, hexec, (hx.setMount _).claims _ _ _⟩
  · intro hnone hl hr hq hi
    rw [State.loadClasses_none (by omega) fun c h8 hc => hnone c h8 (by omega)] at hexec
    obtain ⟨t, ht, hdone⟩ := hx.beginRepair_ends hl hr hq hi
    exact ⟨t, hexec.trans (congrArg Host.Outcome.next ht), hdone⟩

include h in
/-- RECORDS ends with the walk of the last candidate (R183). -/
theorem exec_lastWalk {c : Candidate} (i : Nat) (hp : s.mnt.phase = .records) (hc : s.mnt.candidates = [c])
    (hv : s.mnt.versionWalk = []) (hwhole : s.mnt.wholeRecord = false) (hw : u.claim.work = .read 1) (h5 : u.claim.first < 512)
    (he : flashRead s.flash u.claim.sector (8 * u.claim.first) 8 = List.replicate 8 0xFF) :
    s.LoadsClasses (s.unclaimed s.flash).classesBegun (.readRunDone p i) 0 := by
  refine (h.between s.flash).classesBegun.loadsClasses (Nat.zero_le 8) ?_
  rw [h.read hw h5 i, he, State.mountAnswer_descriptor (by exact h.store) (by exact hp) (by exact hwhole),
    State.walkedDescriptor_last (x := s.unclaimed s.flash) hc hv]

include h in
/-- A class descriptor is read, and the classes above it follow (R184, R153). -/
theorem exec_classRead {cls : Fin 8} {e : Entry} (i : Nat) (hp : s.mnt.phase = .classes) (hc : s.mnt.cls = cls.val)
    (he : s.idx.lookup (0xFF00 + cls.val) = some e) (hw : u.claim.work = .read (3 + (e.length + 7) / 8))
    (h5 : u.claim.first + (3 + (e.length + 7) / 8) ≤ 512) :
    s.LoadsClasses { s.unclaimed s.flash with classes := s.classes.set cls.val (loadedClass
      (flashRead s.flash u.claim.sector (8 * u.claim.first) (8 * (3 + (e.length + 7) / 8))) e (s.idx.count cls.val)) }
        (.readRunDone p i) (cls.val + 1) := by
  refine ((h.between s.flash).setClasses _).loadsClasses cls.isLt ?_
  have hset : ∀ y, s.classes.setIfInBounds cls.val y = s.classes.set cls.val y := fun y =>
    Vector.ext fun i hi => by rw [Vector.getElem_setIfInBounds, Vector.getElem_set]
  rw [h.read hw h5 i, State.mountAnswer_classes (by exact h.store) (by exact hp)]
  generalize flashRead s.flash _ _ _ = d
  unfold State.classRead
  rw [show (s.unclaimed s.flash).mnt.cls = cls.val from hc]
  dsimp only
  rw [show (s.unclaimed s.flash).idx.lookup (0xFF00 + cls.val) = some e from he, Nat.sub_add_eq, Nat.sub_right_comm]
  dsimp only
  rw [show (s.unclaimed s.flash).classes = s.classes from rfl, hset]
  rfl

end ClassSteps

end Sys2Proof.Machine

/-! PROOFS. Mount (chapter 10): the walk of a candidate's records. -/

namespace Sys2Proof.Machine

set_option Elab.async false

/-! ### A record that the walk reaches (R180, R181) -/

theorem flashRead_take_granule (m : List Host.Cell) (n : SectorNo) (o : Nat) {len : Nat} (h : 8 ≤ len) :
    (flashRead m n o len).take 8 = flashRead m n o 8 := by
  refine eq_of_getD (by rw [List.length_take, length_flashRead, length_flashRead]; omega) fun i hi => ?_
  rw [length_flashRead] at hi
  rw [List.getD_eq_getElem?_getD, List.getElem?_take, if_pos hi, ← List.getD_eq_getElem?_getD, getD_flashRead _ _ _ (by omega),
    getD_flashRead _ _ _ hi]

/-- The index entry of a record of the descriptor given at a place. -/
def Descriptor.entryAt (d : Descriptor) (p : Place) : Entry :=
  { key := d.key, cls := d.cls, place := p, length := d.length, version := d.version, moving := false }

/-- The sequence number that the sector table gives a sector, as an offer reads it (R91). -/
def State.seqOf (s : State) (n : SectorNo) : Nat := (s.sector n).seq.getD 0

/-- The offered record is the one to keep (R91). -/
def OfferWins (old new : Entry) (seqOld seqNew : Nat) : Prop :=
  old.version < new.version ∨ old.version = new.version ∧
    (old.place.sector = new.place.sector ∧ old.place.offset < new.place.offset ∨
      old.place.sector ≠ new.place.sector ∧ (seqOld < seqNew ∨ seqOld = seqNew ∧ old.place.sector < new.place.sector))

theorem offerWins_iff {old new : Entry} {a b : Nat} : offerWins old new a b = true ↔ OfferWins old new a b := by
  unfold offerWins OfferWins
  by_cases hv : new.version = old.version
  · rw [if_neg (not_not.2 hv)]
    by_cases hs : new.place.sector = old.place.sector
    · rw [if_pos hs, decide_eq_true_iff]
      constructor
      · exact fun h => .inr ⟨hv.symm, .inl ⟨hs.symm, h⟩⟩
      · rintro (h | ⟨-, ⟨-, h⟩ | ⟨h, -⟩⟩)
        · omega
        · exact h
        · exact absurd hs.symm h
    · rw [if_neg hs]
      by_cases hq : b = a
      · rw [if_neg (not_not.2 hq), decide_eq_true_iff]
        constructor
        · exact fun h => .inr ⟨hv.symm, .inr ⟨Ne.symm hs, .inr ⟨hq.symm, h⟩⟩⟩
        · rintro (h | ⟨-, ⟨h, -⟩ | ⟨-, h | ⟨-, h⟩⟩⟩)
          · omega
          · exact absurd h.symm hs
          · omega
          · exact h
      · rw [if_pos hq, decide_eq_true_iff]
        constructor
        · exact fun h => .inr ⟨hv.symm, .inr ⟨Ne.symm hs, .inl h⟩⟩
        · rintro (h | ⟨-, ⟨h, -⟩ | ⟨-, h | ⟨h, -⟩⟩⟩)
          · omega
          · exact absurd h.symm hs
          · exact h
          · exact absurd h.symm hq
  · rw [if_pos hv, decide_eq_true_iff]
    constructor
    · exact .inl
    · rintro (h | ⟨h, -⟩)
      · exact h
      · exact absurd h.symm hv

section Offer
variable {x : State} {e : Entry}

/-- The record counted live in its sector (R180). -/
def State.countedLive (x : State) (e : Entry) : State :=
  x.putSector e.place.sector ((x.sector e.place.sector).makeLive (footprint e.length))

theorem State.countedLive_seqOf (n : SectorNo) : ((x.countedLive e).sector n).seq.getD 0 = x.seqOf n := by
  unfold State.countedLive State.seqOf
  rw [State.sector_putSector]
  split
  · next h =>
    rw [h]
    rfl
  · rfl

/-- The state with a record on the repair list and counted among the duplicates resolved (R181, R182). -/
def State.lost (x : State) (item : Repair) : State :=
  x.setMount { x.mnt with
    repairs := x.mnt.repairs ++ [item]
    findings := { x.mnt.findings with duplicates := x.mnt.findings.duplicates + 1 } }

theorem State.offerRecord_new (hl : x.idx.lookup e.key = none) (hlen : x.idx.entries.length < 1024) :
    x.offerRecord e = { x.countedLive e with idx := { x.idx with
      entries := entryInsert { e with moving := false } x.idx.entries, counts := countUp x.idx.counts e.cls } } := by
  unfold State.offerRecord KeyIndex.offer
  dsimp only
  rw [show (x.putSector e.place.sector ((x.sector e.place.sector).makeLive (footprint e.length))).idx = x.idx from rfl, hl,
    KeyIndex.lookup_insert hl hlen]
  rfl

variable {old : Entry} (hl : x.idx.lookup e.key = some old)

include hl in
theorem State.offerRecord_wins (h : OfferWins old e (x.seqOf old.place.sector) (x.seqOf e.place.sector)) (hp : old.place ≠ e.place) :
    x.offerRecord e = State.lost { x.countedLive e with idx := { x.idx with
      entries := entryUpdate e.key (fun f => f.take e) x.idx.entries, counts := countMove x.idx.counts old.cls e.cls } }
        { place := old.place, key := e.key, footprint := footprint old.length } := by
  have hwins := offerWins_iff.2 h
  rw [← State.countedLive_seqOf (e := e), ← State.countedLive_seqOf (e := e)] at hwins
  unfold State.offerRecord KeyIndex.offer
  dsimp only
  rw [show (x.putSector e.place.sector ((x.sector e.place.sector).makeLive (footprint e.length))).idx = x.idx from rfl, hl]
  dsimp only
  rw [if_pos (by exact hwins)]
  dsimp only
  rw [if_neg hp]
  rfl

include hl in
theorem State.offerRecord_loses (h : ¬ OfferWins old e (x.seqOf old.place.sector) (x.seqOf e.place.sector)) :
    x.offerRecord e = (x.countedLive e).lost { place := e.place, key := e.key, footprint := footprint e.length } := by
  have hloses := offerWins_iff.not.2 h
  rw [← State.countedLive_seqOf (e := e), ← State.countedLive_seqOf (e := e)] at hloses
  unfold State.offerRecord KeyIndex.offer
  dsimp only
  rw [show (x.putSector e.place.sector ((x.sector e.place.sector).makeLive (footprint e.length))).idx = x.idx from rfl, hl]
  dsimp only
  rw [if_neg (by exact hloses)]
  dsimp only
  rw [if_pos rfl]
  rfl

end Offer

/-- The walk moved to the descriptor granule at an offset of a sector (R52). -/
def State.walking (x : State) (n : SectorNo) (o : Nat) : State :=
  x.setMount { x.mnt with scanSector := n, scanOffset := o, wholeRecord := false }

theorem State.Between.walkAt {x : State} (h : x.Between) (n : SectorNo) (o : Nat) :
    x.walkAt n o = (x.walking n o).mountClaim n (o / 8) (.read 1) :=
  (h.setMount _).claim _ _ _ rfl

/-- A LIVE record of a candidate is offered, and the walk goes on behind it. -/
theorem State.walkedRecord_live {x : State} {c : Candidate} {l : List Candidate} {d : Descriptor} {bytes : List Byte}
    (hc : x.mnt.candidates = c :: l) (hd : readDescriptor (bytes.take 8) = d) (hv : verdict bytes = .live)
    (hend : x.mnt.scanOffset + footprint d.length ≤ 4072) : x.walkedRecord bytes =
      ((x.setMount { x.mnt with verMax := max x.mnt.verMax d.version }).offerRecord
        (d.entryAt { sector := x.mnt.scanSector, offset := x.mnt.scanOffset })).walkAt x.mnt.scanSector
          (x.mnt.scanOffset + footprint d.length) := by
  have hpast : chainPastEnd (x.mnt.scanOffset + footprint d.length) = false := decide_eq_false (Nat.not_lt.2 hend)
  have hmore : x.mnt.candidates.isEmpty = false := by
    rw [hc]
    rfl
  unfold State.walkedRecord
  rw [hd, hv]
  dsimp only
  rw [hpast, hmore, if_neg Bool.false_ne_true, if_neg Bool.false_ne_true]
  rfl

/-- A descriptor that a WRITE may have made of a user record (R46). -/
structure Descriptor.OfUser (d : Descriptor) : Prop where
  key : 1 ≤ d.key ∧ d.key ≤ 0xFEFF
  cls : d.cls ≤ 7
  length : d.length ≤ 240
  version : d.version < 4294967296

section Walk
variable {s : State} {p : PlaneId} {u : Run} (h : s.MountRun p u) {d : Descriptor} (hd : d.OfUser)
  (hp : s.mnt.phase = .records) (hscan : s.mnt.scanSector = u.claim.sector) (hoff : s.mnt.scanOffset = 8 * u.claim.first)
  (hg : flashRead s.flash u.claim.sector s.mnt.scanOffset 8 = descriptorGranule d)

include hd in
theorem Descriptor.OfUser.readBack : readDescriptor (descriptorGranule d) = d :=
  readDescriptor_descriptorGranule (by have := hd.key; omega) (by have := hd.cls; omega) (by have := hd.length; omega) hd.version

include h hd hp hscan hoff hg in
/-- A descriptor granule that the walk reaches has its whole record read (R52). -/
theorem exec_walkedDescriptor (i : Nat) (hend : s.mnt.scanOffset + footprint d.length ≤ 4096) (hw : s.mnt.wholeRecord = false)
    (hwork : u.claim.work = .read 1) : ∃ t, exec (.readRunDone p i) s = .next t ∧
      ((s.unclaimed s.flash).setMount { s.mnt with wholeRecord := true }).Claims u.claim.sector u.claim.first
        (.read (footprint d.length / 8)) t := by
  have hfp := footprint_pos d.length
  have hstep : chainStep s.mnt.scanOffset (descriptorGranule d) = .record (footprint d.length) :=
    chainStep_descriptorGranule (by have := hd.key; omega) (by have := hd.key; omega) (by have := hd.key; omega)
      (by have := hd.cls; omega) hd.length hd.version hend
  refine h.read_claims hwork (by omega) i ((h.between s.flash).setMount _) ?_
  rw [State.mountAnswer_descriptor (by exact h.store) (by exact hp) (by exact hw), Nat.mul_one, ← hoff, hg]
  unfold State.walkedDescriptor
  rw [show (s.unclaimed s.flash).mnt = s.mnt from rfl, hstep, hscan, hoff, Nat.mul_div_cancel_left _ (by decide)]
  exact ((h.between s.flash).setMount _).claim _ _ _ rfl

/-- The state in which a record just read whole is offered. -/
def State.offering (s : State) (d : Descriptor) : State :=
  (s.unclaimed s.flash).setMount { s.mnt with verMax := max s.mnt.verMax d.version }

include h hd hp hscan hoff hg in
/-- A LIVE record of a candidate is offered, and the walk goes on behind it (R180, R181). -/
theorem exec_walkedRecord (i : Nat) {c : Candidate} {l : List Candidate} (hc : s.mnt.candidates = c :: l)
    (hend : s.mnt.scanOffset + footprint d.length ≤ 4072) (hw : s.mnt.wholeRecord = true)
    (hwork : u.claim.work = .read (footprint d.length / 8))
    (hlive : verdict (flashRead s.flash u.claim.sector s.mnt.scanOffset (footprint d.length)) = .live) {z : State}
    (hz : (s.offering d).offerRecord (d.entryAt { sector := u.claim.sector, offset := s.mnt.scanOffset }) = z) (hb : z.Between) :
    ∃ t, exec (.readRunDone p i) s = .next t ∧ (z.walking s.mnt.scanSector (s.mnt.scanOffset + footprint d.length)).Claims
      u.claim.sector ((s.mnt.scanOffset + footprint d.length) / 8) (.read 1) t := by
  have hfp : 8 * (footprint d.length / 8) = footprint d.length := by
    unfold footprint
    omega
  have hpos : 8 ≤ footprint d.length := by
    unfold footprint
    omega
  refine h.read_claims hwork (by omega) i (hb.setMount _) ?_
  rw [State.mountAnswer_record (by exact h.store) (by exact hp) (by exact hw), hfp, ← hoff,
    State.walkedRecord_live (x := s.unclaimed s.flash) hc
      (by rw [flashRead_take_granule _ _ _ hpos, hg]; exact hd.readBack) hlive hend,
    show (s.unclaimed s.flash).mnt = s.mnt from rfl, hscan, ← State.offering, hz, hb.walkAt]

end Walk

end Sys2Proof.Machine

/-! PROOFS. Mount (chapter 10): what its end leaves of the counters, whatever the reclaim engine holds then. -/

namespace Sys2Proof.Machine

set_option Elab.async false

/-! ### A stop of the reclaim engine keeps the counters -/

/-- A signal that concerns no request at its taking, or that the head of the queue is to be taken. -/
def Signal.Passing : Signal → Prop
  | .take | .unmarked | .blankChanged | .cycleEnded _ | .openingEnded => True
  | _ => False

/-- What leads from `s` to `t` changes neither the counters of the space manager nor the request engine, and tells passing things. -/
structure State.Calm (s t : State) : Prop where
  gen : t.space.gen = s.space.gen
  seqCtr : t.space.seqCtr = s.space.seqCtr
  eng : t.eng = s.eng
  signals : ∀ y ∈ t.agenda, y ∈ s.agenda ∨ y.Passing

section Calm
variable {s t : State}

theorem State.Calm.refl (s : State) : s.Calm s := ⟨rfl, rfl, rfl, fun _ h => .inl h⟩

/-- A step that keeps the counters, the request engine and the agenda. -/
theorem State.Calm.quiet {u : State} (h : s.Calm t) (hs : u.space = t.space) (he : u.eng = t.eng) (ha : u.agenda = t.agenda) :
    s.Calm u :=
  ⟨(congrArg Space.gen hs).trans h.gen, (congrArg Space.seqCtr hs).trans h.seqCtr, he.trans h.eng, fun y hy => h.signals y (ha ▸ hy)⟩

theorem State.Calm.signal {y : Signal} (h : s.Calm t) (hy : y.Passing) : s.Calm (t.signal y) := by
  refine ⟨h.gen, h.seqCtr, h.eng, fun z hz => ?_⟩
  rcases List.mem_append.1 (show z ∈ t.agenda ++ [y] from hz) with hz | hz
  · exact h.signals z hz
  · rw [List.mem_singleton.1 hz]
    exact .inr hy

theorem State.Calm.setSector (h : s.Calm t) (n : SectorNo) (e : SectorEntry) : s.Calm (t.setSector n e) := by
  have hspace := t.setSector_space n e
  refine ⟨(congrArg Space.gen hspace).trans h.gen, (congrArg Space.seqCtr hspace).trans h.seqCtr, (t.setSector_eng n e).trans h.eng,
    fun y hy => ?_⟩
  unfold State.setSector at hy
  obtain ⟨f, l, heq, hl⟩ := State.blankMoved_eq _ _
  rw [heq] at hy
  rcases List.mem_append.1 hy with hy | hy
  · exact h.signals y hy
  · rcases hl with rfl | rfl
    · exact nomatch hy
    · rw [List.mem_singleton.1 hy]
      exact .inr trivial

theorem State.Calm.endCycle (h : s.Calm t) (how : CycleEnd) : s.Calm (t.endCycle how) :=
  State.Calm.signal (y := .cycleEnded how) (h.quiet (by rfl) (by rfl) (by rfl)) trivial

theorem State.Calm.clearMove (h : s.Calm t) (key : Nat) : s.Calm (t.clearMove key) := by
  have hcleared : s.Calm { t with idx := t.idx.clearMoving key } := h.quiet rfl rfl rfl
  unfold State.clearMove
  dsimp only
  split
  · exact hcleared.signal trivial
  · exact hcleared

theorem State.Calm.withdraw (h : s.Calm t) (who : Claimant) : s.Calm (t.withdraw who) := h.quiet rfl rfl rfl

theorem State.Calm.dropStep (h : s.Calm t) (n : SectorNo) (st : ReclaimStep) (how : CycleEnd) : s.Calm (t.dropStep n st how) :=
  ((h.clearMove st.key).setSector n _).endCycle how

theorem State.Calm.stopFull (h : s.Calm t) (n : SectorNo) : s.Calm (t.stopFull n) := (h.setSector n _).endCycle .stopped

theorem State.Calm.stopPending (h : s.Calm t) (n : SectorNo) : s.Calm (t.stopPending n) := (h.setSector n _).endCycle .stopped

end Calm

/-- A stop request keeps the counters. The cycle ends with it, or nobody is told anything. -/
theorem State.stopNow_calm (s : State) : s.Calm s.stopNow ∧ (s.stopNow.rcl.act = .idle ∨ s.stopNow.agenda = s.agenda) := by
  have hasked : ∀ a, s.Calm ((s.askStop .reclaim).setAct a) ∧
      (((s.askStop .reclaim).setAct a).rcl.act = .idle ∨ ((s.askStop .reclaim).setAct a).agenda = s.agenda) := fun a =>
    ⟨(State.Calm.refl s).quiet rfl rfl rfl, .inr rfl⟩
  have hself : s.Calm s ∧ (s.rcl.act = .idle ∨ s.agenda = s.agenda) := ⟨.refl s, .inr rfl⟩
  have hfree := (State.Calm.refl s).withdraw .reclaim
  unfold State.stopNow
  split
  · exact hself
  · split
    · split
      · exact hasked _
      · exact ⟨hfree.stopFull _, .inl rfl⟩
    · exact ⟨(State.Calm.refl s).stopFull _, .inl rfl⟩
    · split
      · exact hasked _
      · exact ⟨hfree.dropStep _ _ _, .inl rfl⟩
    · exact ⟨(State.Calm.refl s).dropStep _ _ _, .inl rfl⟩
    · split
      · exact hasked _
      · exact ⟨(hfree.signal (y := .openingEnded) trivial).dropStep _ _ _, .inl rfl⟩
    · split
      · exact ⟨(hfree.setSector _ _).dropStep _ _ _, .inl rfl⟩
      · exact hself
    · split
      · exact ⟨hfree.stopPending _, .inl rfl⟩
      · exact hself
    · exact hself

/-! ### Passing signals delivered -/

/-- No request is past its taking, and what is still to be told concerns neither such a request nor the reclaim engine. -/
structure State.Still (x t : State) : Prop where
  gen : t.space.gen = x.space.gen
  seqCtr : t.space.seqCtr = x.space.seqCtr
  fresh : ∀ r, t.eng.req = some r → r.phase = .taken
  signals : ∀ y ∈ t.agenda, y.Passing
  room : .openingEnded ∈ t.agenda → t.rcl.act ≠ .roomWait

theorem State.takeHead_taken {s : State} (h : ∀ r, s.eng.req = some r → r.phase = .taken) :
    ∀ r, s.takeHead.eng.req = some r → r.phase = .taken := by
  cases hr : s.eng.req with
  | none => exact State.takeHead_fresh hr
  | some r =>
    have hself : s.takeHead = s := by
      unfold State.takeHead
      rw [hr]
    rw [hself]
    exact h

/-- A passing signal is the taking of the head or changes nothing. -/
theorem State.deliver_passing {s : State} {y : Signal} (hy : y.Passing) (h : ∀ r, s.eng.req = some r → r.phase = .taken)
    (hroom : y = .openingEnded → s.rcl.act ≠ .roomWait) : s.deliver y = s ∨ s.deliver y = s.takeHead := by
  cases y with
  | take => exact .inr rfl
  | openingEnded => exact .inl (State.deliver_openingEnded h (hroom rfl))
  | unmarked =>
    refine .inl ?_
    show s.requestUnmarked = s
    unfold State.requestUnmarked
    split
    · rfl
    · next r hr => exact if_neg (by rw [h r hr]; exact fun e => nomatch e)
  | blankChanged =>
    refine .inl ?_
    show s.requestBlank = s
    unfold State.requestBlank
    split
    · rfl
    · next r hr => exact if_neg (by rw [h r hr]; exact fun e => nomatch e.1)
  | cycleEnded how =>
    refine .inl ?_
    show s.requestCycleEnded how = s
    unfold State.requestCycleEnded
    split
    · rfl
    · next r hr => rw [h r hr]
  | answer | holdReleased | storeReadOnly | stopAsked => exact hy.elim

theorem State.Still.drain {x : State} : ∀ (k : Nat) {t : State}, x.Still t → x.Still (t.drain k)
  | 0, _, h => h
  | k + 1, t, h => by
    cases ha : t.agenda with
    | nil => rwa [State.drain_nil ha]
    | cons y l =>
      rw [State.drain_cons ha]
      refine State.Still.drain k ?_
      have hy : y ∈ t.agenda := ha ▸ List.mem_cons_self
      have hl : ∀ z ∈ l, z ∈ t.agenda := fun z hz => ha ▸ List.mem_cons_of_mem y hz
      have hrest : x.Still { t with agenda := l } :=
        ⟨h.gen, h.seqCtr, h.fresh, fun z hz => h.signals z (hl z hz), fun hz => h.room (hl _ hz)⟩
      rcases State.deliver_passing (s := { t with agenda := l }) (h.signals y hy) h.fresh (fun e => h.room (e ▸ hy)) with heq | heq
      · rwa [heq]
      · rw [heq]
        have htaken := State.takeHead_taken hrest.fresh
        obtain ⟨w, e, htake⟩ := State.takeHead_eq { t with agenda := l }
        rw [htake] at htaken ⊢
        exact ⟨h.gen, h.seqCtr, htaken, hrest.signals, hrest.room⟩

/-! ### The end of mount keeps the counters -/

section Counters
variable {x : State} (h : x.Between) (hr : x.eng.req = none)

/-- `t` has the counters of `x`. -/
def State.SameCounters (x t : State) : Prop := t.space.gen = x.space.gen ∧ t.space.seqCtr = x.space.seqCtr

theorem State.Still.settled {t : State} (h : x.Still t) (k : Nat) : x.SameCounters ((t.drain k).startTest) := by
  obtain ⟨hgen, hseq, -⟩ := h.drain k
  obtain ⟨hbec, -⟩ := State.startTest_becomes (t.drain k)
  rw [hbec]
  exact ⟨hgen, hseq⟩

include h hr in
theorem State.finishMount_counters {to_ : StoreState} (hto : to_ = .readOnly ∨ to_ = .ready) :
    x.SameCounters (((x.finishMount to_).drain 255).startTest) := by
  rcases hto with rfl | rfl
  · rw [State.finishMount_readOnly h.store, h.quiet, State.drain_cons (x := .storeReadOnly) (l := [.take]) rfl]
    refine State.Still.settled ?_ 254
    have hreclaim : ∀ y : State, x.SameCounters y → y.eng.req = none → y.agenda = [.take] →
        x.Still (y.deliver .storeReadOnly) := fun y hy hyr hya => by
      show x.Still (State.requestReadOnly (State.reclaimReadOnly y))
      have hstill : ∀ z : State, y.Calm z → (z.rcl.act = .idle ∨ z.agenda = [.take]) → x.Still z.requestReadOnly := fun z hz hroom => by
        have hzr : z.eng.req = none := (congrArg Engine.req hz.eng).trans hyr
        have hself : z.requestReadOnly = z := by
          unfold State.requestReadOnly
          rw [hzr]
        rw [hself]
        refine ⟨hz.gen.trans hy.1, hz.seqCtr.trans hy.2, fun r e => (nomatch hzr.symm.trans e), fun v hv => ?_, fun hv => ?_⟩
        · rcases hz.signals v hv with hv | hv
          · rw [hya, List.mem_singleton] at hv
            rw [hv]
            trivial
          · exact hv
        · rcases hroom with hroom | hroom
          · rw [hroom]
            exact fun e => nomatch e
          · rw [hroom, List.mem_singleton] at hv
            exact nomatch hv
      unfold State.reclaimReadOnly
      split
      · exact hstill y (.refl y) (.inr hya)
      · obtain ⟨hcalm, hroom⟩ := State.stopNow_calm { y with rcl := { y.rcl with
          stop := if y.rcl.stop = .format then StopRequest.format else .readOnly } }
        exact hstill _ ⟨hcalm.gen, hcalm.seqCtr, hcalm.eng, hcalm.signals⟩ (hroom.imp id fun e => e.trans hya)
    exact hreclaim _ ⟨rfl, rfl⟩ hr rfl
  · rw [State.finishMount_ready h.store, h.quiet, List.nil_append]
    have htake : ∀ t : State, t.agenda = [.take] → t.space = x.space → t.eng.req = none → x.Still t := fun t ha hs he =>
      ⟨congrArg Space.gen hs, congrArg Space.seqCtr hs, fun r e => (nomatch he.symm.trans e),
        fun y hy => by
          rw [ha, List.mem_singleton] at hy
          rw [hy]
          trivial,
        fun hy => by
          rw [ha, List.mem_singleton] at hy
          exact nomatch hy⟩
    generalize hy : ({ x.mountEnded .ready { x.rcl with noVictim := false } with agenda := [.take] } : State) = y
    exact (htake y (by rw [← hy]) (by rw [← hy]; rfl) (by rw [← hy]; exact hr)).settled 255

/-- A run that mount claims leaves the counters. -/
theorem State.Between.claim_counters {y : State} (h : y.Between) (hy : x.SameCounters y) (n : SectorNo) (first : Nat) (work : Work) :
    x.SameCounters (((y.mountClaim n first work).drain 255).startTest) := by
  rw [h.settled]
  have hspace : (y.mountClaim n first work).space = y.space := State.setPlane_space ..
  exact ⟨(congrArg Space.gen hspace).trans hy.1, (congrArg Space.seqCtr hspace).trans hy.2⟩

include h hr in
theorem State.Between.nextRepair_counters : x.SameCounters ((x.nextRepair.drain 255).startTest) := by
  cases hl : x.mnt.repairs with
  | nil =>
    unfold State.nextRepair
    rw [hl]
    exact State.finishMount_counters h hr x.mountedState_cases
  | cons a l =>
    rw [h.nextRepair hl]
    exact h.claim_counters ⟨rfl, rfl⟩ _ _ _

end Counters

theorem State.Between.loadClasses_counters {x : State} (h : x.Between) (hr : x.eng.req = none) : ∀ k : Nat,
    x.SameCounters (((x.loadClasses k).drain 255).startTest)
  | 0 => (h.setMount { x.mnt with phase := .repair }).nextRepair_counters hr
  | k + 1 => by
    unfold State.loadClasses
    dsimp only
    split
    · exact h.loadClasses_counters hr k
    · rw [State.claimRead, (h.setMount _).claim _ _ _ rfl]
      exact (h.setMount _).claim_counters (by exact ⟨rfl, rfl⟩) _ _ _

theorem State.Between.nextWalk_counters {x : State} (h : x.Between) (hr : x.eng.req = none) :
    x.SameCounters ((x.nextWalk.drain 255).startTest) := by
  unfold State.nextWalk
  split
  · next c _ _ =>
    rw [(h.putSector _ _).walkAt]
    exact ((h.putSector _ _).setMount _).claim_counters (by exact ⟨rfl, rfl⟩) _ _ _
  · rw [h.walkAt]
    exact (h.setMount _).claim_counters (by exact ⟨rfl, rfl⟩) _ _ _
  · have hload : ∀ y : State, y.Between → y.eng.req = none → y.space = x.space →
        x.SameCounters (((y.loadClasses 8).drain 255).startTest) := fun y hy hyr hs => by
      have hcounters := hy.loadClasses_counters hyr 8
      unfold State.SameCounters at hcounters ⊢
      rwa [hs] at hcounters
    unfold State.recordsDone
    generalize hy : State.setMount _ _ = y
    exact hload y (hy ▸ (h.setWriteSeq (x.mnt.verMax + 1)).setMount _) (by rw [← hy]; exact hr) (by rw [← hy]; rfl)

end Sys2Proof.Machine

/-! PROOFS. Mount (chapter 10): HEADERS. -/

namespace Sys2Proof.Machine

set_option Elab.async false

/-! ### A header that is read (R175) -/

/-- The generation that a header adds to those noted (R175, R177). -/
def notedBy (n : SectorNo) (retired : Bool) (id : IdentityRead) : List (SectorNo × Nat) :=
  match retired, id with
  | false, .valid gen _ => [(n, gen)]
  | _, _ => []

/-- The candidate that a header makes of its sector (R175). -/
def candidateBy (n : SectorNo) (retired marked : Bool) (id : IdentityRead) (op : OpenRead) : List Candidate :=
  match retired, marked, id, op with
  | false, false, .valid gen _, .valid seq _ => [{ sector := n, gen := gen, seq := seq }]
  | _, _, _, _ => []

/-- The highest sequence number noted, with that of a header (R179). -/
def topBy (op : OpenRead) (top : Option Nat) : Option Nat :=
  match op with
  | .valid seq _ => some (top.elim seq (max seq))
  | _ => top

/-- A header whose record area is read: its sector may be BLANK (R176). -/
def mayBeBlank (retired marked : Bool) (id : IdentityRead) (op : OpenRead) : Bool :=
  id.isValid && op == .erased && !retired && !marked

/-- The state with the header of the sector scanned taken into the table and the lists of mount (R175). -/
def State.headered (x : State) (retired marked : Bool) (id : IdentityRead) (op : OpenRead) : State :=
  { x.putSector x.mnt.scanSector (headerEntry (if retired then .retired else .erasePending) id) with
    mnt := { x.mnt with
      noted := x.mnt.noted ++ notedBy x.mnt.scanSector retired id
      candidates := x.mnt.candidates ++ candidateBy x.mnt.scanSector retired marked id op
      seqMax := topBy op x.mnt.seqMax } }

/-- The reading of the record area of the sector scanned is claimed, or HEADERS goes on. -/
def State.afterHeader (x : State) (blank : Bool) : State :=
  if blank then
    (x.setMount { x.mnt with scanOffset := 64, wholeRecord := true }).claimRead .mount x.mnt.scanSector 8 504
  else x.nextHeader

theorem Mount.noteSeq_eq (m : Mount) (op : OpenRead) : m.noteSeq op = { m with seqMax := topBy op m.seqMax } := by
  cases op <;> rfl

theorem Mount.noteGen_eq (m : Mount) (n : SectorNo) (id : IdentityRead) :
    m.noteGen n id = { m with noted := m.noted ++ notedBy n false id } := by
  cases id with
  | valid gen count => rfl
  | erased | damaged =>
    show m = { m with noted := m.noted ++ [] }
    rw [List.append_nil]

/-- A header that makes no candidate. -/
theorem State.headered_noCandidate {x : State} {retired marked : Bool} {id : IdentityRead} {op : OpenRead}
    (h : candidateBy x.mnt.scanSector retired marked id op = []) : x.headered retired marked id op =
      (x.putSector x.mnt.scanSector (headerEntry (if retired then .retired else .erasePending) id)).setMount
        { x.mnt with
          noted := x.mnt.noted ++ notedBy x.mnt.scanSector retired id
          seqMax := topBy op x.mnt.seqMax } := by
  unfold State.headered
  rw [h, List.append_nil]
  rfl

/-- The first row that applies to a header (R175). -/
theorem State.headerRead_eq (x : State) {g : List Byte} {retired marked : Bool} {id : IdentityRead} {op : OpenRead}
    (hid : readIdentity (g.take 8) = id) (hop : readOpen ((g.drop 8).take 8) = op)
    (hretired : (!allErased ((g.drop 16).take 8)) = retired) (hmarked : (!allErased ((g.drop 24).take 8)) = marked) :
    x.headerRead g = (x.headered retired marked id op).afterHeader (mayBeBlank retired marked id op) := by
  unfold State.headerRead
  dsimp only
  rw [hid, hop, hretired, hmarked, Mount.noteSeq_eq, Mount.noteGen_eq]
  dsimp only
  cases retired with
  | true =>
    have hnot : mayBeBlank true marked id op = false := by
      unfold mayBeBlank
      rw [Bool.not_true, Bool.and_false, Bool.false_and]
    rw [hnot, State.headered_noCandidate (by rfl), show notedBy x.mnt.scanSector true id = [] by rfl, List.append_nil]
    rfl
  | false =>
    cases marked with
    | true =>
      have hnot : mayBeBlank false true id op = false := by
        unfold mayBeBlank
        rw [Bool.not_true, Bool.and_false]
      rw [hnot, State.headered_noCandidate (by rfl)]
      rfl
    | false =>
      cases id with
      | erased | damaged =>
        rw [State.headered_noCandidate (by rfl)]
        rfl
      | valid gen count =>
        cases op with
        | valid seq role => rfl
        | erased | damaged =>
          rw [State.headered_noCandidate (by rfl)]
          rfl

/-- The bytes of a window of a read. -/
theorem flashRead_window (m : List Host.Cell) (n : SectorNo) {o len a b : Nat} (h : a + b ≤ len) :
    ((flashRead m n o len).drop a).take b = flashRead m n (o + a) b := by
  refine eq_of_getD (by rw [List.length_take, List.length_drop, length_flashRead, length_flashRead]; omega) fun i hi => ?_
  rw [length_flashRead] at hi
  rw [List.getD_eq_getElem?_getD, List.getElem?_take, if_pos hi, List.getElem?_drop, ← List.getD_eq_getElem?_getD,
    getD_flashRead _ _ _ (by omega), getD_flashRead _ _ _ hi, Nat.add_assoc]

/-- A granule does not read erased. -/
theorem not_allErased_iff {g : List Byte} (h : g.length = 8) : (!allErased g) = (g != List.replicate 8 0xFF) := by
  rw [Bool.eq_iff_iff, Bool.not_eq_true', bne_iff_ne, ← Bool.not_eq_true, (allErased_granule h).not]

section Header
variable {s : State} {p : PlaneId} {u : Run} (h : s.MountRun p u) (hp : s.mnt.phase = .headers)

/-- The state with the header of the sector scanned taken in, by the four granules as they read. -/
def State.scanned (s : State) : State :=
  let n := s.mnt.scanSector
  (s.unclaimed s.flash).headered (flashRead s.flash n 16 8 != List.replicate 8 0xFF) (flashRead s.flash n 24 8 != List.replicate 8 0xFF)
    (readIdentity (flashRead s.flash n 0 8)) (readOpen (flashRead s.flash n 8 8))

/-- The sector scanned may be BLANK, by the four granules of its header. -/
def State.scannedBlank (s : State) : Bool :=
  let n := s.mnt.scanSector
  mayBeBlank (flashRead s.flash n 16 8 != List.replicate 8 0xFF) (flashRead s.flash n 24 8 != List.replicate 8 0xFF)
    (readIdentity (flashRead s.flash n 0 8)) (readOpen (flashRead s.flash n 8 8))

include h in
theorem State.MountRun.scanned : s.scanned.Between := ⟨rfl, rfl, h.store, h.quiet⟩

include h hp in
/-- The header of a sector is read (R175). -/
theorem exec_headerRead (i : Nat) (hw : s.mnt.wholeRecord = false) (hscan : s.mnt.scanSector = u.claim.sector)
    (hfirst : u.claim.first = 0) (hwork : u.claim.work = .read 4) :
    exec (.readRunDone p i) s = .next ((((s.scanned.afterHeader s.scannedBlank).drain 255).startTest)) := by
  have hlen : ∀ a, (flashRead s.flash s.mnt.scanSector a 8).length = 8 := fun a => length_flashRead ..
  rw [h.read hwork (by omega) i, State.mountAnswer_headers (by exact h.store) (by exact hp) (by exact hw), hfirst, ← hscan,
    State.headerRead_eq (s.unclaimed s.flash) (g := flashRead s.flash s.mnt.scanSector 0 32)
      (by rw [flashRead_take_granule _ _ _ (by decide)]) (by rw [flashRead_window _ _ (by decide)])
      (by rw [flashRead_window _ _ (by decide), not_allErased_iff (hlen _)])
      (by rw [flashRead_window _ _ (by decide), not_allErased_iff (hlen _)])]
  rfl

end Header

/-! ### The next header, and the record area (R175, R176) -/

/-- HEADERS moved to a sector (R175). -/
def State.scanning (x : State) (m : SectorNo) : State :=
  x.setMount { x.mnt with scanSector := m, scanOffset := 0, wholeRecord := false }

theorem State.Between.nextHeader {x : State} (h : x.Between) {m : SectorNo} (hm : m.val = x.mnt.scanSector.val + 1) :
    x.nextHeader = (x.scanning m).mountClaim m 0 (.read 4) := by
  have hmore : x.mnt.scanSector.val + 1 < 64 := hm ▸ m.isLt
  have hsector : (⟨x.mnt.scanSector.val + 1, hmore⟩ : SectorNo) = m := Fin.ext hm.symm
  unfold State.nextHeader
  rw [dif_pos hmore, hsector]
  exact (h.setMount _).claim _ _ _ rfl

theorem State.nextHeader_last {x : State} (h : x.mnt.scanSector = 63) : x.nextHeader = x.headersDone := by
  unfold State.nextHeader
  rw [h]
  rfl

theorem State.Between.recordArea {x : State} (h : x.Between) : x.afterHeader true =
    (x.setMount { x.mnt with scanOffset := 64, wholeRecord := true }).mountClaim x.mnt.scanSector 8 (.read 504) :=
  (h.setMount _).claim _ _ _ rfl

/-- The record area of a sector reads erased throughout (R176). -/
theorem allErased_recordArea {m : List Host.Cell} {n : SectorNo} : allErased (flashRead m n 64 4032) = true ↔
    ∀ o, 64 ≤ o → o < 4096 → flashByte m n o = 0xFF := by
  rw [allErased_iff, length_flashRead]
  constructor
  · intro hall o ho ho'
    have hbyte := hall (o - 64) (by omega)
    rwa [getD_flashRead _ _ _ (by omega), Nat.add_sub_cancel' ho] at hbyte
  · intro hall j hj
    rw [getD_flashRead _ _ _ hj]
    exact hall _ (by omega) (by omega)

/-- The state with the record area of the sector scanned taken into the table (R176). -/
def State.areaRead (s : State) (n : SectorNo) : State :=
  if allErased (flashRead s.flash n 64 4032) then (s.unclaimed s.flash).putSector n { s.sector n with state := .blank }
  else s.unclaimed s.flash

/-- The record area of a sector is read (R176). -/
theorem exec_recordArea {s : State} {p : PlaneId} {u : Run} (h : s.MountRun p u) (hp : s.mnt.phase = .headers) (i : Nat) {m : SectorNo}
    (hw : s.mnt.wholeRecord = true) (hscan : s.mnt.scanSector = u.claim.sector) (hm : m.val = u.claim.sector.val + 1)
    (hfirst : u.claim.first = 8) (hwork : u.claim.work = .read 504) :
    ∃ t, exec (.readRunDone p i) s = .next t ∧ ((s.areaRead u.claim.sector).scanning m).Claims m 0 (.read 4) t := by
  have hbytes : flashRead s.flash u.claim.sector (8 * u.claim.first) (8 * 504) = flashRead s.flash u.claim.sector 64 4032 := by
    rw [hfirst]
  have hread : (s.areaRead u.claim.sector).Between ∧ (s.areaRead u.claim.sector).mnt = s.mnt := by
    unfold State.areaRead
    split
    · exact ⟨(h.between s.flash).putSector _ _, rfl⟩
    · exact ⟨h.between s.flash, rfl⟩
  obtain ⟨hb, hmnt⟩ := hread
  refine h.read_claims hwork (by omega) i (hb.setMount _) ?_
  rw [hbytes, State.mountAnswer_recordArea (by exact h.store) (by exact hp) (by exact hw),
    ← hb.nextHeader (by rw [hmnt, hscan]; exact hm)]
  unfold State.recordAreaRead State.areaRead
  dsimp only
  rw [show (s.unclaimed s.flash).mnt.scanSector = u.claim.sector from hscan]
  split <;> rfl

/-! ### The end of HEADERS (R177 to R179) -/

/-- The highest generation noted (R177). -/
def topGen (l : List (SectorNo × Nat)) : Nat := l.foldl (fun a x => max a x.2) 0

theorem foldl_max_ge : ∀ (l : List (SectorNo × Nat)) (a : Nat), a ≤ l.foldl (fun a x => max a x.2) a ∧
    ∀ x ∈ l, x.2 ≤ l.foldl (fun a x => max a x.2) a
  | [], a => ⟨Nat.le_refl a, fun _ h => nomatch h⟩
  | y :: l, a => by
    obtain ⟨hstart, hall⟩ := foldl_max_ge l (max a y.2)
    refine ⟨(Nat.le_max_left a y.2).trans hstart, fun x hx => ?_⟩
    rcases List.mem_cons.1 hx with rfl | hx
    · exact (Nat.le_max_right a x.2).trans hstart
    · exact hall x hx

theorem foldl_max_mem : ∀ (l : List (SectorNo × Nat)) (a : Nat),
    l.foldl (fun a x => max a x.2) a = a ∨ ∃ x ∈ l, x.2 = l.foldl (fun a x => max a x.2) a
  | [], _ => .inl rfl
  | y :: l, a => by
    rw [List.foldl_cons]
    rcases foldl_max_mem l (max a y.2) with h | ⟨x, hx, h⟩
    · rcases Nat.le_total a y.2 with hle | hle
      · exact .inr ⟨y, List.mem_cons_self, by rw [h, Nat.max_eq_right hle]⟩
      · exact .inl (h.trans (Nat.max_eq_left hle))
    · exact .inr ⟨x, List.mem_cons_of_mem y hx, h⟩

theorem le_topGen {l : List (SectorNo × Nat)} {x : SectorNo × Nat} (h : x ∈ l) : x.2 ≤ topGen l := (foldl_max_ge l 0).2 x h

theorem topGen_mem {l : List (SectorNo × Nat)} (h : l ≠ []) : ∃ x ∈ l, x.2 = topGen l := by
  rcases foldl_max_mem l 0 with hzero | hmem
  · obtain ⟨x, l', rfl⟩ := List.exists_cons_of_ne_nil h
    have hle := le_topGen (List.mem_cons_self (a := x) (l := l'))
    rw [topGen, hzero] at hle
    exact ⟨x, List.mem_cons_self, by rw [topGen, hzero]; omega⟩
  · exact hmem

/-- The candidate to walk first (R180). -/
def Candidate.Before (c d : Candidate) : Prop := c.seq < d.seq ∨ c.seq = d.seq ∧ c.sector ≤ d.sector

theorem Candidate.Before.trans {a b c : Candidate} (h : a.Before b) (k : b.Before c) : a.Before c := by
  unfold Candidate.Before at *
  rw [Fin.le_def] at *
  omega

theorem candidateSort_head : ∀ {l : List Candidate}, l ≠ [] → ∃ c r, candidateSort l = c :: r ∧ c ∈ l ∧ ∀ d ∈ l, c.Before d
  | [a], _ => ⟨a, [], rfl, List.mem_cons_self, fun d hd => by
      rw [List.mem_singleton.1 hd]
      exact .inr ⟨rfl, Nat.le_refl _⟩⟩
  | a :: b :: l, _ => by
    obtain ⟨c, r, heq, hc, hbefore⟩ := candidateSort_head (l := b :: l) (List.cons_ne_nil b l)
    have hsort : candidateSort (a :: b :: l) = candidateInsert a (c :: r) := congrArg (candidateInsert a) heq
    rw [hsort]
    unfold candidateInsert
    by_cases hlt : a.seq < c.seq ∨ (a.seq = c.seq ∧ a.sector < c.sector)
    · have hac : a.Before c := hlt.imp id fun e => ⟨e.1, Nat.le_of_lt e.2⟩
      refine ⟨a, c :: r, if_pos hlt, List.mem_cons_self, fun d hd => ?_⟩
      rcases List.mem_cons.1 hd with rfl | hd
      · exact .inr ⟨rfl, Nat.le_refl _⟩
      · exact hac.trans (hbefore d hd)
    · have hca : c.Before a := by
        unfold Candidate.Before
        rw [Fin.lt_def] at hlt
        rw [Fin.le_def]
        omega
      refine ⟨c, candidateInsert a r, if_neg hlt, List.mem_cons_of_mem a hc, fun d hd => ?_⟩
      rcases List.mem_cons.1 hd with rfl | hd
      · exact hca
      · exact hbefore d hd

/-- One step of the passage over the noted generations (R177). -/
def State.lowerBlank (gen : Nat) (t : State) (x : SectorNo × Nat) : State :=
  if x.2 < gen ∧ (t.sector x.1).state = .blank then t.putSector x.1 ((t.sector x.1).leaveUse .erasePending) else t

theorem State.lowerBlank_foldl (gen : Nat) : ∀ (l : List (SectorNo × Nat)) (s : State), ∃ v : Vector SectorEntry 64,
    l.foldl (State.lowerBlank gen) s = { s with space := { s.space with sectors := v } } ∧
      (∀ n : SectorNo, v[n].state = (s.sector n).state ∨ (s.sector n).state = .blank ∧ v[n].state = .erasePending) ∧
        ∀ x ∈ l, x.2 < gen → (s.sector x.1).state = .blank → v[x.1].state = .erasePending
  | [], s => ⟨s.space.sectors, rfl, fun _ => .inl rfl, fun _ h => nomatch h⟩
  | y :: l, s => by
    obtain ⟨v, heq, hstates, hlist⟩ := State.lowerBlank_foldl gen l (s.lowerBlank gen y)
    by_cases hy : y.2 < gen ∧ (s.sector y.1).state = .blank
    · have hstep : s.lowerBlank gen y = s.putSector y.1 ((s.sector y.1).leaveUse .erasePending) := if_pos hy
      rw [hstep] at heq hstates hlist
      have hset : ∀ n, (s.putSector y.1 ((s.sector y.1).leaveUse .erasePending)).sector n =
          if n = y.1 then (s.sector y.1).leaveUse .erasePending else s.sector n := fun n =>
        (State.sector_putSector s y.1 n _).trans (if_congr eq_comm rfl rfl)
      have hown : v[y.1].state = .erasePending := by
        rcases hstates y.1 with e | ⟨e, -⟩
        · rw [e, hset, if_pos rfl]
          rfl
        · rw [hset, if_pos rfl] at e
          exact nomatch e
      refine ⟨v, ?_, fun n => ?_, fun x hx hlt hblank => ?_⟩
      · rw [List.foldl_cons, hstep, heq]
        rfl
      · by_cases hn : n = y.1
        · rw [hn]
          exact .inr ⟨hy.2, hown⟩
        · have hother := hstates n
          rwa [hset, if_neg hn] at hother
      · by_cases hn : x.1 = y.1
        · obtain ⟨m, g⟩ := x
          obtain rfl : m = y.1 := hn
          exact hown
        · rcases List.mem_cons.1 hx with rfl | hx
          · exact absurd rfl hn
          · exact hlist x hx hlt (by rwa [hset, if_neg hn])
    · have hstep : s.lowerBlank gen y = s := if_neg hy
      rw [hstep] at heq hstates hlist
      refine ⟨v, by rw [List.foldl_cons, hstep, heq], hstates, fun x hx hlt hblank => ?_⟩
      rcases List.mem_cons.1 hx with rfl | hx
      · exact absurd ⟨hlt, hblank⟩ hy
      · exact hlist x hx hlt hblank

/-- The state in which RECORDS begins (R177 to R180), with the space manager and the findings as given. -/
def State.recordsBegun (x : State) (sp : Space) (f : Findings) : State :=
  { x with
    space := sp
    mnt := { x.mnt with
      phase := .records
      candidates := candidateSort (x.mnt.candidates.filter (fun c => c.gen == topGen x.mnt.noted))
      versionWalk := (x.mnt.candidates.filter (fun (c : Candidate) => c.gen != topGen x.mnt.noted)).map Candidate.sector
      findings := f } }

/-- The space manager once all headers are read (R177, R179). -/
structure State.SpaceBegun (x : State) (sp : Space) : Prop where
  gen : sp.gen = topGen x.mnt.noted
  seqCtr : sp.seqCtr = seqAfter x.mnt.seqMax
  lowered : ∀ y ∈ x.mnt.noted, y.2 < topGen x.mnt.noted → (x.sector y.1).state = .blank → sp.sectors[y.1].state = .erasePending

/-- The estimate of an erase count leaves the sector's state (R178). -/
theorem Space.estimated_state (sp : Space) (n : SectorNo) : (sp.estimated.sectors[n]).state = (sp.sectors[n]).state := by
  unfold Space.estimated
  dsimp only
  rw [Fin.getElem_fin, Vector.getElem_map]
  split <;> rfl

/-- HEADERS ends UNFORMATTED with no generation noted, and goes on to RECORDS otherwise (R177). -/
theorem State.headersDone_eq (x : State) : ∃ sp f, x.SpaceBegun sp ∧ x.headersDone =
    if x.mnt.noted.isEmpty then
      ({ x.recordsBegun sp f with eng := { x.eng with writeSeq := 1 } } : State).finishMount .unformatted
    else (x.recordsBegun sp f).nextWalk := by
  obtain ⟨v, heq, -, hlist⟩ := State.lowerBlank_foldl (topGen x.mnt.noted) x.mnt.noted x
  have hlower : x.lowerBlanks (topGen x.mnt.noted) = { x with space := { x.space with sectors := v } } := heq
  refine ⟨{ ({ x.space with sectors := v } : Space).estimated with gen := topGen x.mnt.noted, seqCtr := seqAfter x.mnt.seqMax },
    { x.mnt.findings with estimated := Space.estimatedCount { ({ x.space with sectors := v } : Space).estimated with
      gen := topGen x.mnt.noted, seqCtr := seqAfter x.mnt.seqMax } }, ⟨rfl, rfl, fun y hy hlt hblank => ?_⟩, ?_⟩
  · have hstate := hlist y hy hlt hblank
    exact (Space.estimated_state { x.space with sectors := v } y.1).trans hstate
  · unfold State.headersDone
    rw [← topGen]
    dsimp only
    rw [hlower]
    rfl

theorem State.takeHead_keeps (s : State) : s.takeHead.eng.store = s.eng.store ∧ s.takeHead.eng.writeSeq = s.eng.writeSeq ∧
    s.takeHead.win.iflag = s.win.iflag := by
  unfold State.takeHead
  split
  · split
    · exact ⟨rfl, rfl, rfl⟩
    · exact ⟨rfl, rfl, rfl⟩
  · exact ⟨rfl, rfl, rfl⟩

/-- Mount has ended UNFORMATTED (R8, R177). -/
structure State.EndsUnformatted (t : State) : Prop where
  store : t.eng.store = .unformatted
  writeSeq : t.eng.writeSeq = 1
  stateChg : t.win.flag .stateChg = true
  phase : t.mnt.phase = .none
  planes : ∀ q, t.plane q = Plane.reset

section LastHeader
variable {x : State} (h : x.Between)

theorem State.recordsBegun_between {sp : Space} {f : Findings} (h : x.Between) : (x.recordsBegun sp f).Between :=
  ⟨h.pl0, h.pl1, h.store, h.quiet⟩

include h in
/-- With no generation noted the store is UNFORMATTED (R177). -/
theorem State.Between.headersDone_unformatted (hnoted : x.mnt.noted = []) : ∃ t, (x.headersDone.drain 255).startTest = t ∧
    t.EndsUnformatted ∧ t.space.gen = 0 ∧ t.space.seqCtr = seqAfter x.mnt.seqMax := by
  obtain ⟨sp, f, hsp, heq⟩ := x.headersDone_eq
  have hgen : sp.gen = 0 := by
    rw [hsp.gen, hnoted]
    rfl
  rw [heq, hnoted, List.isEmpty_nil, if_pos rfl, State.finishMount_unformatted (by exact h.store),
    show ({ x.recordsBegun sp f with eng := { x.eng with writeSeq := 1 } } : State).agenda = [] from h.quiet, List.nil_append,
    State.drain_take rfl]
  generalize hy : ({ x.recordsBegun sp f with eng := { x.eng with writeSeq := 1 } } : State) = y
  have hflag : (y.mountEnded .unformatted y.rcl).win.flag .stateChg = true := by
    show (y.win.iflag ||| IntFlag.stateChg.mask).getLsbD 5 = true
    rw [BitVec.getLsbD_or, getLsbD_stateChg_mask, Bool.or_true]
  obtain ⟨hstore, hwrite, hiflag⟩ := State.takeHead_keeps { y.mountEnded .unformatted y.rcl with agenda := [] }
  rw [State.startTest_notReady (by rw [hstore]; exact fun e => nomatch e)]
  obtain ⟨w, e, htake⟩ := State.takeHead_eq { y.mountEnded .unformatted y.rcl with agenda := [] }
  rw [htake] at hstore hwrite hiflag ⊢
  refine ⟨_, rfl, ⟨hstore, hwrite.trans ?_, ?_, rfl, fun q => ?_⟩, ?_, ?_⟩
  · rw [← hy]
    rfl
  · show w.iflag.getLsbD 5 = true
    rw [show w.iflag = _ from hiflag]
    exact hflag
  · rw [← hy]
    cases q
    · exact h.pl0
    · exact h.pl1
  · rw [← hy]
    exact hgen
  · rw [← hy]
    exact hsp.seqCtr

include h in
/-- The counters that the end of HEADERS leaves (R177, R179). -/
theorem State.Between.headersDone_counters (hr : x.eng.req = none) (hnoted : x.mnt.noted ≠ []) :
    ((x.headersDone.drain 255).startTest).space.gen = topGen x.mnt.noted ∧
      ((x.headersDone.drain 255).startTest).space.seqCtr = seqAfter x.mnt.seqMax := by
  obtain ⟨sp, f, hsp, heq⟩ := x.headersDone_eq
  have hmore : x.mnt.noted.isEmpty = false := List.isEmpty_eq_false_iff.2 hnoted
  rw [heq, hmore, if_neg Bool.false_ne_true]
  obtain ⟨hgen, hseq⟩ := (State.recordsBegun_between (sp := sp) (f := f) h).nextWalk_counters hr
  exact ⟨hgen.trans hsp.gen, hseq.trans hsp.seqCtr⟩

include h in
/-- The candidate of the lowest sequence number is the first to be walked (R180). -/
theorem State.Between.headersDone_walks (hnoted : x.mnt.noted ≠ []) (hc : ∃ c ∈ x.mnt.candidates, c.gen = topGen x.mnt.noted) :
    ∃ sp f c, x.SpaceBegun sp ∧ c ∈ x.mnt.candidates ∧ c.gen = topGen x.mnt.noted ∧
      (∀ d ∈ x.mnt.candidates, d.gen = topGen x.mnt.noted → c.Before d) ∧
      (((x.recordsBegun sp f).putSector c.sector (((x.recordsBegun sp f).sector c.sector).candidate c.seq)).walking c.sector 64).Between ∧
      x.headersDone = (((x.recordsBegun sp f).putSector c.sector
        (((x.recordsBegun sp f).sector c.sector).candidate c.seq)).walking c.sector 64).mountClaim c.sector 8 (.read 1) := by
  obtain ⟨sp, f, hsp, heq⟩ := x.headersDone_eq
  have hmore : x.mnt.noted.isEmpty = false := List.isEmpty_eq_false_iff.2 hnoted
  have hfilter : ∀ d, d ∈ x.mnt.candidates.filter (fun c => c.gen == topGen x.mnt.noted) ↔
      d ∈ x.mnt.candidates ∧ d.gen = topGen x.mnt.noted := fun d => by
    rw [List.mem_filter, beq_iff_eq]
  obtain ⟨a, ha, hagen⟩ := hc
  obtain ⟨c, r, hsort, hmem, hbefore⟩ := candidateSort_head (List.ne_nil_of_mem ((hfilter a).2 ⟨ha, hagen⟩))
  obtain ⟨hcmem, hcgen⟩ := (hfilter c).1 hmem
  have hb := (State.recordsBegun_between (sp := sp) (f := f) h).putSector c.sector
    (((x.recordsBegun sp f).sector c.sector).candidate c.seq)
  refine ⟨sp, f, c, hsp, hcmem, hcgen, fun d hd hdgen => hbefore d ((hfilter d).2 ⟨hd, hdgen⟩), hb.setMount _, ?_⟩
  rw [heq, hmore, if_neg Bool.false_ne_true, ← hb.walkAt]
  unfold State.nextWalk
  rw [show (x.recordsBegun sp f).mnt.candidates = c :: r from hsort]
  rfl

/-- RECORDS has begun with the walk of the candidate `c` (R180). -/
structure State.WalksFirst (x t : State) (c : Candidate) : Prop where
  eng : t.eng = x.eng
  phase : t.mnt.phase = .records
  here : t.mnt.scanSector = c.sector
  full : (t.sector c.sector).state = .full
  seq : (t.sector c.sector).seq = some c.seq
  granted : t.Granted (planeOf c.sector) (mountRun c.sector 8 (.read 1))
  lowered : ∀ y ∈ x.mnt.noted, y.2 < topGen x.mnt.noted → y.1 ≠ c.sector → (x.sector y.1).state = .blank →
    (t.sector y.1).state = .erasePending

include h in
theorem State.Between.headersDone_first (hnoted : x.mnt.noted ≠ [])
    (hc : ∃ c ∈ x.mnt.candidates, c.gen = topGen x.mnt.noted) : ∃ c ∈ x.mnt.candidates, c.gen = topGen x.mnt.noted ∧
      (∀ d ∈ x.mnt.candidates, d.gen = topGen x.mnt.noted → c.Before d) ∧ x.WalksFirst ((x.headersDone.drain 255).startTest) c := by
  obtain ⟨sp, f, c, hsp, hmem, hgen, hbefore, hb, heq⟩ := h.headersDone_walks hnoted hc
  refine ⟨c, hmem, hgen, hbefore, ?_⟩
  rw [heq, hb.settled]
  have ht := hb.claims c.sector 8 (.read 1)
  have hown := (ht.sector c.sector).trans (State.sector_putSector_same (x.recordsBegun sp f) c.sector _)
  exact {
    eng := ht.eng, phase := congrArg Mount.phase ht.mnt
    here := congrArg Mount.scanSector ht.mnt, full := by rw [hown]; rfl, seq := by rw [hown]; rfl, granted := ht.granted
    lowered := fun y hy hlt hne hblank => by
      rw [(ht.sector y.1).trans ((State.sector_putSector (x.recordsBegun sp f) c.sector y.1 _).trans (if_neg (Ne.symm hne)))]
      exact hsp.lowered y hy hlt hblank }

end LastHeader

/-! ### What a header scanned leaves -/

/-- What the header of sector `n`, by its four granules as they read, makes of the table and the lists of mount (R175). -/
structure State.ScannedAs (s : State) (n : SectorNo) (retired marked : Bool) (id : IdentityRead) (op : OpenRead) : Prop where
  blank : s.scannedBlank = mayBeBlank retired marked id op
  entry : s.scanned.sector n = headerEntry (if retired then .retired else .erasePending) id
  others : ∀ m, m ≠ n → s.scanned.sector m = s.sector m
  candidates : s.scanned.mnt.candidates = s.mnt.candidates ++ candidateBy n retired marked id op
  noted : s.scanned.mnt.noted = s.mnt.noted ++ notedBy n retired id
  seqMax : s.scanned.mnt.seqMax = topBy op s.mnt.seqMax
  here : s.scanned.mnt.scanSector = n

theorem State.scannedAs {s : State} {n : SectorNo} (hn : s.mnt.scanSector = n) :
    s.ScannedAs n (flashRead s.flash n 16 8 != List.replicate 8 0xFF) (flashRead s.flash n 24 8 != List.replicate 8 0xFF)
      (readIdentity (flashRead s.flash n 0 8)) (readOpen (flashRead s.flash n 8 8)) := by
  subst hn
  exact {
    blank := rfl, candidates := rfl, noted := rfl, seqMax := rfl, here := rfl
    entry := State.sector_putSector_same _ _ _
    others := fun m hm => (State.sector_putSector _ _ _ _).trans (if_neg (Ne.symm hm)) }

/-- Short of the end of HEADERS a run is claimed, and the lists of mount stand (R175, R176). -/
theorem State.Between.afterHeader_claims {x : State} (h : x.Between) {blank : Bool}
    (hmore : x.mnt.scanSector.val < 63 ∨ blank = true) : ∃ (μ : Mount) (m : SectorNo) (first : Nat) (work : Work),
      (x.setMount μ).Claims m first work (((x.afterHeader blank).drain 255).startTest) ∧
        μ.candidates = x.mnt.candidates ∧ μ.noted = x.mnt.noted ∧ μ.seqMax = x.mnt.seqMax := by
  cases blank with
  | true =>
    rw [h.recordArea, (h.setMount _).settled]
    exact ⟨_, _, _, _, (h.setMount _).claims _ _ _, rfl, rfl, rfl⟩
  | false =>
    have hlt : x.mnt.scanSector.val < 63 := hmore.resolve_right Bool.false_ne_true
    have hnext : x.afterHeader false = (x.scanning ⟨x.mnt.scanSector.val + 1, by omega⟩).mountClaim _ 0 (.read 4) := h.nextHeader rfl
    rw [hnext, State.scanning, (h.setMount _).settled]
    exact ⟨_, _, _, _, (h.setMount _).claims _ _ _, rfl, rfl, rfl⟩

theorem headerEntry_eq (st : SectorState) (id : IdentityRead) : headerEntry st id = { SectorEntry.reset with
    state := st
    eraseCount := match id with
      | .valid _ c => c
      | _ => 0
    known := match id with
      | .valid _ _ => true
      | _ => false } := by
  cases id <;> rfl

theorem topBy_eq (op : OpenRead) (top : Option Nat) : topBy op top = match op with
    | .valid seq _ => some (max (top.getD seq) seq)
    | _ => top := by
  cases op with
  | valid seq role =>
    cases top with
    | none => exact congrArg some (Nat.max_self seq).symm
    | some a => exact congrArg some (Nat.max_comm seq a)
  | erased | damaged => rfl

theorem seqAfter_eq (top : Option Nat) : seqAfter top = top.elim 0 (fun q => q + 1) := by
  cases top <;> rfl

end Sys2Proof.Machine

/-! PROOFS. The steps of mount, assembled (chapter 10). -/

namespace Sys2Proof.Machine

set_option Elab.async false

section Assembly
variable {s : State} {p : PlaneId} {u : Run} (h : s.MountRun p u)

/-! ### REPAIR -/

include h in
/-- The last repair ends mount, whether it is effective or faults (R185, R186). -/
theorem exec_lastRepair {a : Repair} (hp : s.mnt.phase = .repair) (hl : s.mnt.repairs = [a]) (h5 : u.claim.first < 512)
    (hw : u.claim.work = .program markGranule .notErased) (hq : s.win.queue = []) (hi : s.rcl.phase = .idle) :
    (∃ m t, exec (.granuleProgramDone p none) s = .next t ∧
      (((s.unclaimed m).putSector a.place.sector ((s.sector a.place.sector).makeStale a.footprint)).setMount
        { s.mnt with repairs := [] }).MountDone t) ∧
    ∀ kept, ∃ m t, exec (.programTimeout p kept) s = .next t ∧
      (((s.countProgramFault.unclaimed m).putSector a.place.sector (s.sector a.place.sector).faulted).setMount
        { s.mnt with repairs := [], repairFailed := true }).MountDone t := by
  constructor
  · obtain ⟨m, hexec⟩ := exec_repairDone h hp hw h5 hl
    obtain ⟨t, ht, hdone⟩ := (((h.between m).putSector a.place.sector ((s.sector a.place.sector).makeStale a.footprint)).setMount
      { s.mnt with repairs := [] }).nextRepair_ends rfl h.noReq hq hi
    exact ⟨m, t, hexec.trans (congrArg Host.Outcome.next ht), hdone⟩
  · intro kept
    obtain ⟨m, hexec⟩ := exec_repairFault h hp hw h5 hl kept
    have hb : (s.countProgramFault.unclaimed m).Between := ⟨rfl, rfl, h.store, h.quiet⟩
    obtain ⟨t, ht, hdone⟩ := ((hb.putSector a.place.sector (s.sector a.place.sector).faulted).setMount
      { s.mnt with repairs := [], repairFailed := true }).nextRepair_ends rfl h.noReq hq hi
    exact ⟨m, t, hexec.trans (congrArg Host.Outcome.next ht), hdone⟩

include h in
/-- A repair answered, the next one is claimed (R185). -/
theorem exec_nextRepair {a b : Repair} {l : List Repair} (hp : s.mnt.phase = .repair) (hl : s.mnt.repairs = a :: b :: l)
    (h5 : u.claim.first < 512) (hw : u.claim.work = .program markGranule .notErased) :
    (∃ m t, exec (.granuleProgramDone p none) s = .next t ∧
      (((s.unclaimed m).putSector a.place.sector ((s.sector a.place.sector).makeStale a.footprint)).setMount
        { s.mnt with repairs := b :: l }).Claims b.place.sector (b.place.offset / 8 + 2) (.program markGranule .notErased) t) ∧
    ∀ kept, ∃ m t, exec (.programTimeout p kept) s = .next t ∧
      (((s.countProgramFault.unclaimed m).putSector a.place.sector (s.sector a.place.sector).faulted).setMount
        { s.mnt with repairs := b :: l, repairFailed := true }).Claims b.place.sector (b.place.offset / 8 + 2)
          (.program markGranule .notErased) t := by
  constructor
  · obtain ⟨m, hexec⟩ := exec_repairDone h hp hw h5 hl
    have hb := ((h.between m).putSector a.place.sector ((s.sector a.place.sector).makeStale a.footprint)).setMount
      { s.mnt with repairs := b :: l }
    rw [hb.nextRepair rfl, hb.settled] at hexec
    exact ⟨m, _, hexec, hb.claims _ _ _⟩
  · intro kept
    obtain ⟨m, hexec⟩ := exec_repairFault h hp hw h5 hl kept
    have hfree : (s.countProgramFault.unclaimed m).Between := ⟨rfl, rfl, h.store, h.quiet⟩
    have hb := (hfree.putSector a.place.sector (s.sector a.place.sector).faulted).setMount
      { s.mnt with repairs := b :: l, repairFailed := true }
    rw [hb.nextRepair rfl, hb.settled] at hexec
    exact ⟨m, _, hexec, hb.claims _ _ _⟩

end Assembly

theorem SectorEntry.faulted_full {e : SectorEntry} (h : e.state = .full) : e.faulted = { e with suspect := true } := by
  rw [SectorEntry.faulted_eq, h]
  rfl

/-- The sector table once a record has been counted live and the walk has gone on. -/
theorem State.Claims.countedLive {x z t : State} {e : Entry} {n m : SectorNo} {o first : Nat} {work : Work}
    (h : (z.walking m o).Claims n first work t) (hz : z.space = (x.countedLive e).space) :
    t.sector e.place.sector = (x.sector e.place.sector).makeLive (footprint e.length) ∧
      ∀ k, k ≠ e.place.sector → t.sector k = x.sector k := by
  have hspace : t.space = (x.countedLive e).space := h.space.trans hz
  have hsector : ∀ k, t.sector k = (x.countedLive e).sector k := fun k => congrArg (fun y : Space => y.sectors[k]) hspace
  exact ⟨(hsector _).trans (State.sector_putSector_same _ _ _),
    fun k hk => (hsector k).trans ((State.sector_putSector _ _ _ _).trans (if_neg (Ne.symm hk)))⟩

/-- A record area read leaves the other sectors and the other blocks, and makes its sector BLANK where it reads erased (R176). -/
theorem State.areaRead_leaves (s : State) (n : SectorNo) : (s.areaRead n).eng = s.eng ∧ (s.areaRead n).win = s.win ∧
    (s.areaRead n).flash = s.flash ∧ (∀ k, k ≠ n → (s.areaRead n).sector k = s.sector k) ∧
      (s.areaRead n).sector n =
        if allErased (flashRead s.flash n 64 4032) then { s.sector n with state := .blank } else s.sector n := by
  unfold State.areaRead
  split
  · exact ⟨rfl, rfl, rfl, fun k hk => (State.sector_putSector _ _ _ _).trans (if_neg (Ne.symm hk)), State.sector_putSector_same _ _ _⟩
  · exact ⟨rfl, rfl, rfl, fun _ _ => rfl, rfl⟩

/-- Settles O49, clause by clause in the order of the statement: HEADERS, the record area, RECORDS, its end, CLASSES, and REPAIR. -/
theorem mountSteps : Obligations.MountSteps := by
  unfold Obligations.MountSteps
  intro s p u i hst ha hrun hwho hdone hstop hplanes hothers hreq hhere n granted runOf ended
  have h : s.MountRun p u := ⟨hst, ha, hrun, hwho, hdone, hstop, hplanes, hothers, hreq, hhere⟩
  subst hhere
  refine ⟨?_, ?_, ?_, ?_, ?_, ?_, ?_⟩
  · intro hp hw hscan hfirst hwork id op retired marked count known blankCheck entry noted candidates top
    have hscanned := s.scannedAs hscan
    have hexec := exec_headerRead h hp i hw hscan hfirst hwork
    have hb := h.scanned
    have hblank : s.scannedBlank = blankCheck := hscanned.blank
    have hentry : s.scanned.sector n = entry := hscanned.entry.trans (headerEntry_eq _ _)
    have htop : s.scanned.mnt.seqMax = top := hscanned.seqMax.trans (topBy_eq _ _)
    have hnoted : s.scanned.mnt.noted = noted := hscanned.noted
    have hcandidates : s.scanned.mnt.candidates = candidates := hscanned.candidates
    rw [hblank] at hexec
    have hflash : ((s.scanned.afterHeader blankCheck).drain 255).startTest.flash = s.flash := by
      by_contra hne
      have hchange := (flashAndParameterChanges _ s _ hexec fun _ _ _ e => (nomatch e)).1 hne
      rcases hchange with ⟨_, _, e⟩ | ⟨_, _, e⟩ | ⟨_, _, e⟩ | ⟨_, _, e⟩ | ⟨_, _, e⟩ <;> exact nomatch e
    refine ⟨_, hexec, hflash, fun hmore => ?_, fun hyes => ?_, fun m hno hm => ?_, fun hlast hno => ?_⟩
    · obtain ⟨μ, m, first, work, ht, hc, hn, hs⟩ := hb.afterHeader_claims (blank := blankCheck) (by rwa [hscanned.here])
      exact ⟨ht.eng, ht.win, (ht.sector n).trans hentry, fun k hk => (ht.sector k).trans (hscanned.others k hk),
        (congrArg Mount.candidates ht.mnt).trans (hc.trans hcandidates), (congrArg Mount.noted ht.mnt).trans (hn.trans hnoted),
        (congrArg Mount.seqMax ht.mnt).trans (hs.trans htop)⟩
    · rw [hyes, hb.recordArea, hscanned.here, (hb.setMount _).settled]
      exact ((hb.setMount _).claims _ _ _).granted
    · have hnext : s.scanned.afterHeader false = (s.scanned.scanning m).mountClaim m 0 (.read 4) :=
        hb.nextHeader (by rw [hscanned.here]; exact hm)
      rw [hno, hnext, State.scanning, (hb.setMount _).settled]
      have ht := (hb.setMount { s.scanned.mnt with scanSector := m, scanOffset := 0, wholeRecord := false }).claims m 0 (.read 4)
      exact ⟨congrArg Mount.scanSector ht.mnt, ht.granted⟩
    · have hdone : s.scanned.afterHeader false = s.scanned.headersDone := State.nextHeader_last (hscanned.here.trans hlast)
      rw [hno, hdone]
      by_cases hn : noted = []
      · obtain ⟨t, ht, hend, hgen, hseq⟩ := hb.headersDone_unformatted (hnoted.trans hn)
        rw [ht]
        exact ⟨hseq.trans (by rw [htop, seqAfter_eq]),
          fun _ => ⟨hend.store, hend.writeSeq, hgen, hend.stateChg, hend.phase, hend.planes⟩, fun hne => absurd hn hne⟩
      · have hne : s.scanned.mnt.noted ≠ [] := by rwa [hnoted]
        obtain ⟨hgen, hseq⟩ := hb.headersDone_counters h.noReq hne
        have hfirst := hb.headersDone_first hne
        generalize ((s.scanned.headersDone).drain 255).startTest = t at hgen hseq hfirst ⊢
        rw [hnoted] at hgen hfirst
        rw [hcandidates] at hfirst
        refine ⟨hseq.trans (by rw [htop, seqAfter_eq]), fun e => absurd e hn, fun _ => ⟨?_, fun y hy => ?_, fun hc => ?_⟩⟩
        · rw [hgen]
          exact topGen_mem hn
        · rw [hgen]
          exact le_topGen hy
        · rw [hgen] at hc ⊢
          obtain ⟨c, hmem, hcgen, hbefore, hw⟩ := hfirst hc
          refine ⟨hw.eng, hw.phase, ⟨c, hmem, hcgen, hw.here, hw.full, hw.seq, hw.granted, hbefore⟩, fun y hy hlt hyn hyc hyblank => ?_⟩
          refine hw.lowered y (hnoted ▸ hy) (hnoted ▸ hlt) (by rwa [hw.here] at hyc) ?_
          rwa [hscanned.others y.1 hyn]
  · intro m hp hw hscan hm hfirst hwork
    obtain ⟨t, hexec, ht⟩ := exec_recordArea h hp i hw hscan hm hfirst hwork
    obtain ⟨heng, hwin, hflash, hothers, hown⟩ := s.areaRead_leaves n
    refine ⟨t, hexec, ht.flash.trans hflash, ht.eng.trans heng, ht.win.trans hwin, congrArg Mount.scanSector ht.mnt, ht.granted,
      fun k hk => (ht.sector k).trans (hothers k hk), fun hall => ?_, fun o h64 h4096 hne => ?_⟩
    · exact (ht.sector n).trans (hown.trans (if_pos (allErased_recordArea.2 hall)))
    · exact (ht.sector n).trans (hown.trans (if_neg fun hall => hne (allErased_recordArea.1 hall o h64 h4096)))
  · intro c l d hp hc hcsec hscan hoff h64 hk1 hk2 hcls hlen hver hg o fp hfit
    have hd : d.OfUser := ⟨⟨hk1, hk2⟩, hcls, hlen, hver⟩
    refine ⟨fun hw hwork => ?_, fun hw hwork hlive hl hcap hend => ?_, ?_⟩
    · obtain ⟨t, hexec, ht⟩ := exec_walkedDescriptor h hd hp hscan hoff hg i hfit hw hwork
      exact ⟨t, hexec, ht.granted, ht.mnt, ht.idx, ht.space, ht.eng, ht.win, ht.flash⟩
    · obtain ⟨t, hexec, ht⟩ := exec_walkedRecord h hd hp hscan hoff hg i hc hend hw hwork hlive
        (State.offerRecord_new (x := s.offering d) hl hcap) ⟨rfl, rfl, h.store, h.quiet⟩
      obtain ⟨hown, hothers⟩ := ht.countedLive rfl
      refine ⟨t, hexec, ht.granted, ht.mnt, hown, hothers, fun k => ?_, ht.eng, ht.win, ht.flash⟩
      rw [ht.idx]
      exact KeyIndex.lookup_insert_entries (e := d.entryAt { sector := n, offset := o }) hl rfl k
    · intro old hw hwork hlive hl hend seq wins goesOn
      constructor
      · intro hwins hne
        obtain ⟨t, hexec, ht⟩ := exec_walkedRecord h hd hp hscan hoff hg i hc hend hw hwork hlive
          (State.offerRecord_wins (x := s.offering d) hl hwins hne) ⟨rfl, rfl, h.store, h.quiet⟩
        obtain ⟨hown, hothers⟩ := ht.countedLive rfl
        refine ⟨t, hexec, ⟨ht.granted, ht.mnt, hown, hothers, ht.eng, ht.win, ht.flash⟩, fun k => ?_⟩
        rw [ht.idx]
        exact lookup_taken (e := d.entryAt { sector := n, offset := o }) hl rfl k
      · intro hloses
        obtain ⟨t, hexec, ht⟩ := exec_walkedRecord h hd hp hscan hoff hg i hc hend hw hwork hlive
          (State.offerRecord_loses (x := s.offering d) hl hloses) ⟨rfl, rfl, h.store, h.quiet⟩
        obtain ⟨hown, hothers⟩ := ht.countedLive rfl
        exact ⟨t, hexec, ⟨ht.granted, ht.mnt, hown, hothers, ht.eng, ht.win, ht.flash⟩, ht.idx⟩
  · intro c hp hc hv hwhole hwork h5 hoff he x
    have hload := exec_lastWalk h i hp hc hv hwhole hwork h5 (by rw [← hoff]; exact he)
    constructor
    · intro cls e hl hlower
      obtain ⟨t, hexec, ht⟩ := hload.reads cls.val e cls.isLt (Nat.zero_le _) hl
        fun d hd _ => hlower ⟨d, hd.trans cls.isLt⟩ hd
      exact ⟨t, hexec, ht.eng, congrArg Mount.phase ht.mnt, congrArg Mount.cls ht.mnt, ht.granted⟩
    · intro hnone hl hq hi
      obtain ⟨t, hexec, h1, h2, h3, h4, h5, h6, h7, h8, h9⟩ := hload.ends (fun c h8 _ => hnone ⟨c, h8⟩) hl hreq hq hi
      exact ⟨t, hexec, ⟨h1, h2, h3, h4, h5, h6, h7, h8⟩, h9⟩
  · intro cls e hp hcls hl hfirst hwork h5 record code quota good entry
    have hlen : e.length = 3 → 27 ≤ record.length := fun h3 => by
      rw [show record.length = 8 * (3 + (e.length + 7) / 8) from length_flashRead .., h3]
      decide
    have hload := exec_classRead h i hp hcls hl hwork (by omega)
    refine ⟨loadedClass record e (s.idx.count cls.val), ⟨fun hgood => loadedClass_taken (hlen hgood.2.1) hgood,
      fun hbad => loadedClass_frozen hlen hbad⟩, ?_⟩
    intro x
    constructor
    · intro up f hup hf hnone
      obtain ⟨t, hexec, ht⟩ := hload.reads up.val f up.isLt hup hf
        fun d hd hcd => hnone ⟨d, hd.trans up.isLt⟩ hcd hd
      exact ⟨t, hexec, ht.classes, ht.mnt, ht.idx, ht.eng, ht.win, ht.flash, ht.granted⟩
    · intro hnone hrep hq hi
      obtain ⟨t, hexec, h1, h2, h3, h4, h5, h6, h7, h8, h9⟩ := hload.ends (fun c h8 hc => hnone ⟨c, h8⟩ hc) hrep hreq hq hi
      exact ⟨t, hexec, ⟨h1, h2, h3, h4, h5, h6, h7, h8⟩, h9⟩
  · intro a hp hl hsec hfirst h512 hwork hq hi e
    obtain ⟨⟨m, t, hexec, hend⟩, hfault⟩ := exec_lastRepair h hp hl h512 hwork hq hi
    constructor
    · obtain ⟨h1, h2, h3, h4, h5, h6, h7, h8, h9⟩ := hend
      rw [hsec] at h1 h7
      exact ⟨t, hexec, h1, h2, h3, h4, h5, h6, h7, h8⟩
    · intro kept hfull
      obtain ⟨m, t, hexec, h1, h2, h3, h4, h5, h6, h7, h8, h9⟩ := hfault kept
      rw [hsec, SectorEntry.faulted_full hfull] at h1 h7
      refine ⟨t, hexec, h1.trans ?_, h1, h2, h3, h4, h5, h6, h7, h8⟩
      exact if_pos (.inr (.inl rfl))
  · intro a b l hp hl hsec hfirst h512 hwork e next
    obtain ⟨⟨m, t, hexec, ht⟩, hfault⟩ := exec_nextRepair h hp hl h512 hwork
    constructor
    · refine ⟨t, hexec, ⟨ht.granted, ht.eng, ht.idx, ht.win, fun k hk => ?_⟩, ht.mnt, ?_⟩
      · exact (ht.sector k).trans ((State.sector_putSector _ _ _ _).trans (if_neg (by rw [hsec]; exact Ne.symm hk)))
      · rw [ht.sector, hsec]
        exact State.sector_putSector_same _ _ _
    · intro kept
      obtain ⟨m, t, hexec, ht⟩ := hfault kept
      have hsector : t.sector n = e.faulted := by
        rw [ht.sector, hsec]
        exact State.sector_putSector_same _ _ _
      refine ⟨t, hexec, ⟨ht.granted, ht.eng, ht.idx, ht.win, fun k hk => ?_⟩, ht.mnt, ?_, ?_, ?_⟩
      · exact (ht.sector k).trans ((State.sector_putSector _ _ _ _).trans (if_neg (by rw [hsec]; exact Ne.symm hk)))
      all_goals rw [hsector, SectorEntry.faulted_eq]; split <;> rfl

end Sys2Proof.Machine
